-- ==== Sys2Proof/Word.lean ====
section
/-! DEFINITION. The word type of the block: every port, register and stream value is one byte (R61, R69, R90).
The narrower fields (7-bit data, 4-bit channel, 5-bit level, 12-bit period) are written as `BitVec n` where they stand. -/

namespace Sys2Proof

/-- One byte: a stream byte (R90), a port number or a value moved over a port (R61). Bit 0 is the least significant (R13). -/
abbrev Byte := BitVec 8

end Sys2Proof
end

