-- ==== Sys2Proof/Config.lean ====
section
/-! DEFINITION. The configuration record `cfg` (R9 to R12): every quantity the source names without a value, the
reference parameter set P0, and the one free value of the model, the byte an unconstrained environment answers to a
port read (R70). `cfg` is fixed at construction and no rule writes it (R37). -/

namespace Sys2Proof

/-- What a controller number selects (R12, `cc_map`). -/
inductive CcAction where
  | none
  | volume
  | attack
  | decay
  | sustain
  | release
  | vibrato
  | tremolo
  | modulation
deriving DecidableEq, Repr

/-- The configuration record `cfg` (R9 to R12), as plain data: a table stands for each function. Its constraints are
`Config.errors` (Sys2Proof/WellFormed.lean). -/
structure Config where
  /-- `N`, the voice count of the PSG backend (R9). -/
  n : Nat
  /-- `ADDR_PORT`, the register-select port (R9). -/
  addrPort : Byte
  /-- `DATA_PORT`, the data port (R9). -/
  dataPort : Byte
  /-- `T_SETTLE`, a duration no rule reads; P0 gives it no value (R9, R310). -/
  tSettle : Option Nat
  /-- `TONE_LO[0..2]` (R10). -/
  toneLo : Vector Byte 3
  /-- `TONE_HI[0..2]` (R10). -/
  toneHi : Vector Byte 3
  /-- `NOISE` (R10). -/
  noise : Byte
  /-- `MIXER` (R10). -/
  mixer : Byte
  /-- `LEVEL[0..2]` (R10). -/
  level : Vector Byte 3
  /-- `ENV_LO` (R10). -/
  envLo : Byte
  /-- `ENV_HI` (R10). -/
  envHi : Byte
  /-- `ENV_SHAPE` (R10). -/
  envShape : Byte
  /-- `MIXER_INIT` (R11). -/
  mixerInit : Byte
  /-- `MIXER_OFF` (R11). -/
  mixerOff : Byte
  /-- `MIXER_RW_MASK` (R11). -/
  mixerRwMask : Byte
  /-- `LEVEL_RW_MASK` (R11). -/
  levelRwMask : Byte
  /-- `DETECT_SENTINEL` (R11). -/
  detectSentinel : Byte
  /-- `SHAPE_PLAIN` (R11). -/
  shapePlain : BitVec 4
  /-- `SHAPE_DECAY` (R11). -/
  shapeDecay : BitVec 4
  /-- `PRESET_SHAPE`; its length is `PRESET_COUNT` (R11). -/
  presetShape : List (BitVec 4)
  /-- `NOTE_MIN` (R12). -/
  noteMin : Nat
  /-- `NOTE_MAX` (R12). -/
  noteMax : Nat
  /-- `PERIOD`, entry `n - NOTE_MIN` for note `n` (R12). -/
  period : List Nat
  /-- `BEND_K` (R12). -/
  bendK : Nat
  /-- `cc_map`, entry `k` for controller `k` (R12). -/
  ccMap : List CcAction
  /-- `env_bytes`, entry `s` the pair `(lo, hi)` for the 8-bit value `s` (R12). -/
  envBytes : List (Byte × Byte)
  /-- `psg_wmask`, the bits of each PSG register that store a written bit; used by the present-chip environment only
  (R12, R71). -/
  psgWmask : Vector Byte 16
deriving DecidableEq, Repr

/-- The tone-period table of P0, notes 24 to 107 (R203). -/
def Config.p0Period : List Nat :=
  [3523, 3325, 3138, 2962, 2796, 2639, 2491, 2351, 2219, 2095, 1977, 1866] ++
  [1761, 1662, 1569, 1481, 1398, 1319, 1245, 1176, 1110, 1047, 988, 933] ++
  [881, 831, 785, 741, 699, 660, 623, 588, 555, 524, 494, 467] ++
  [440, 416, 392, 370, 349, 330, 311, 294, 277, 262, 247, 233] ++
  [220, 208, 196, 185, 175, 165, 156, 147, 139, 131, 124, 117] ++
  [110, 104, 98, 93, 87, 82, 78, 73, 69, 65, 62, 58] ++
  [55, 52, 49, 46, 44, 41, 39, 37, 35, 33, 31, 29]

/-- The controller map of P0 (R177). -/
def Config.p0CcAction (k : Nat) : CcAction :=
  match k with
  | 1 => .modulation
  | 7 => .volume
  | 72 => .release
  | 73 => .attack
  | 75 => .decay
  | 76 => .vibrato
  | 79 => .sustain
  | 92 => .tremolo
  | _ => .none

/-- The reference parameter set P0 (R9 to R12, R41, R177, R203). Every value is the spec's own choice, not a claim about
the original hardware. DESIGN CHOICE, unsafe, log entry 1. -/
def Config.p0 : Config where
  n := 3
  addrPort := 0xD8
  dataPort := 0xD0
  tSettle := none
  toneLo := #v[0, 2, 4]
  toneHi := #v[1, 3, 5]
  noise := 6
  mixer := 7
  level := #v[8, 9, 10]
  envLo := 11
  envHi := 12
  envShape := 13
  mixerInit := 0x38
  mixerOff := 0x3F
  mixerRwMask := 0x3F
  levelRwMask := 0x0F
  detectSentinel := 0xA5
  shapePlain := 0x0D
  shapeDecay := 0x0E
  presetShape := [0x0D, 0x0E, 0x08, 0x0A]
  noteMin := 24
  noteMax := 107
  period := Config.p0Period
  bendK := 65536
  ccMap := (List.range 128).map Config.p0CcAction
  envBytes := (List.range 256).map fun s => (BitVec.ofNat 8 s, 0)
  psgWmask :=
    #v[0xFF, 0x0F, 0xFF, 0x0F, 0xFF, 0x0F, 0x1F, 0xFF, 0x1F, 0x1F, 0x1F, 0xFF, 0xFF, 0x0F, 0xFF, 0xFF]

/-- FREE VALUE: the byte an unconstrained environment answers to its `k`-th port read since the scripted answers ran
out (R70, U15: any value). It has no body, so nothing can be proved of it. Log entry 3. -/
opaque Config.readAnswer : Nat → Byte

end Sys2Proof
end

