-- ==== Sys2Proof/Syntax.lean ====
section
/-! DEFINITION. The syntax of what the block is given and what its parser puts out: the instructions of
spec/opcode_table.json (one constructor per row), the units of the byte stream they are read from, the host commands
of R185, the input items of R7 and the Events of R100. -/

namespace Sys2Proof

/-- One constructor per row of spec/opcode_table.json (R109). Fields are the row's fields, most significant byte of the
row first; a field the table calls ignored or discarded is kept, so that no bit of an encoding is dropped. -/
inductive Instr where
  /-- `DATA`, `0ddddddd` (R91, R132 to R134). -/
  | data (d : BitVec 7)
  /-- `ST.NOTEOFF`, `1000cccc` (R125). -/
  | stNoteOff (c : BitVec 4)
  /-- `ST.NOTEON`, `1001cccc` (R126). -/
  | stNoteOn (c : BitVec 4)
  /-- `ST.POLYP`, `1010cccc` (R127). -/
  | stPolyp (c : BitVec 4)
  /-- `ST.CC`, `1011cccc` (R128). -/
  | stCc (c : BitVec 4)
  /-- `ST.PC`, `1100cccc` (R129). -/
  | stPc (c : BitVec 4)
  /-- `ST.CHANP`, `1101cccc` (R130). -/
  | stChanp (c : BitVec 4)
  /-- `ST.PB`, `1110cccc` (R131). -/
  | stPb (c : BitVec 4)
  /-- `SYSCOM`, `11110sss`, `s` ignored (R123). -/
  | syscom (s : BitVec 3)
  /-- `RT`, `11111rrr`, `r` ignored (R122). -/
  | rt (r : BitVec 3)
  /-- `NOTEOFF`, `1000cccc 0nnnnnnn 0vvvvvvv`, `v` discarded (R95, R135). -/
  | noteOff (c : BitVec 4) (n v : BitVec 7)
  /-- `NOTEON`, `1001cccc 0nnnnnnn 0vvvvvvv` (R95, R136). -/
  | noteOn (c : BitVec 4) (n v : BitVec 7)
  /-- `CC`, `1011cccc 0kkkkkkk 0vvvvvvv` (R95, R137). -/
  | cc (c : BitVec 4) (k v : BitVec 7)
  /-- `PC`, `1100cccc 0ppppppp` (R95, R138). -/
  | pc (c : BitVec 4) (p : BitVec 7)
  /-- `PB`, `1110cccc 0lllllll 0mmmmmmm` (R95, R139). -/
  | pb (c : BitVec 4) (l m : BitVec 7)
  /-- `POLYP`, the one-byte message `1010cccc` (R95, R127). -/
  | polyp (c : BitVec 4)
  /-- `CHANP`, the one-byte message `1101cccc` (R95, R130). -/
  | chanp (c : BitVec 4)
  /-- `RS2`, two data bytes `0xxxxxxx 0yyyyyyy` with the status byte elided (R99). -/
  | rs2 (x y : BitVec 7)
  /-- `RS1`, one data byte `0xxxxxxx` with the status byte elided (R99). -/
  | rs1 (x : BitVec 7)
  /-- `SYS.F0` (R103). -/
  | sysF0
  /-- `SYS.F1` (R103). -/
  | sysF1
  /-- `SYS.F2` (R103). -/
  | sysF2
  /-- `SYS.F3` (R103). -/
  | sysF3
  /-- `SYS.F4` (R103). -/
  | sysF4
  /-- `SYS.F5` (R103). -/
  | sysF5
  /-- `SYS.F6` (R103). -/
  | sysF6
  /-- `SYS.F7` (R103). -/
  | sysF7
  /-- `RT.F8` (R103). -/
  | rtF8
  /-- `RT.F9` (R103). -/
  | rtF9
  /-- `RT.FA` (R103). -/
  | rtFA
  /-- `RT.FB` (R103). -/
  | rtFB
  /-- `RT.FC` (R103). -/
  | rtFC
  /-- `RT.FD` (R103). -/
  | rtFD
  /-- `RT.FE` (R103). -/
  | rtFE
  /-- `RT.FF` (R103). -/
  | rtFF
deriving DecidableEq, Repr

/-- How the byte stream is handed to the block. `byte b` is the item `Byte(b)` of R7. `message bs` is a run of
consecutive `Byte` items with nothing between them: the unit of the message rows of the table (R95, R99). A scheduling
turn takes one byte of it (R187); a step may run it whole, as the instruction it is, which is equal to taking its bytes
one a turn. DESIGN CHOICE, safe, log entry 2. -/
inductive InputUnit where
  | byte (b : Byte)
  | message (bs : List Byte)
deriving DecidableEq, Repr

/-- The bytes of a unit, in arrival order. -/
def InputUnit.bytes : InputUnit → List Byte
  | .byte b => [b]
  | .message bs => bs

/-- The sixteen operations of the capability interface (R181), as a host `Op` calls them (R185). Arguments are as wide
as a host can give them; the domain of each is R185's, checked when the command is taken. -/
inductive BackendOp where
  | init
  | reset
  | allOff
  | noteOn (voice : Nat) (note velocity : Byte) (channel : Byte)
  | noteOff (voice : Nat)
  | setVolume (voice : Nat) (value : Byte)
  | setAttack (voice : Nat) (value : Byte)
  | setDecay (voice : Nat) (value : Byte)
  | setSustain (voice : Nat) (value : Byte)
  | setRelease (voice : Nat) (value : Byte)
  | setVibrato (value : Byte)
  | setTremolo (value : Byte)
  | setModulation (value : Byte)
  | setPitchBend (value : Int)
  | setPreset (program : Byte)
  | panic
deriving DecidableEq, Repr

/-- The host commands (R185). A backend kind is named by its bit number in the detected set (R34): 0 is the PSG, every
other number is an unknown kind. -/
inductive HostCmd where
  | reset
  | detect
  | select (kind : Nat)
  | panic
  | reinit
  | op (f : BackendOp)
deriving DecidableEq, Repr

/-- One input item (R7). -/
inductive Item where
  | input (u : InputUnit)
  | cmd (c : HostCmd)
deriving DecidableEq, Repr

/-- The parser's output (R100). The bend is the one signed quantity of the block (R13), in `-8192..8191` (R98). -/
inductive Event where
  | noteOn (note velocity : BitVec 7) (channel : BitVec 4)
  | noteOff (note : BitVec 7) (channel : BitVec 4)
  | controlChange (controller value : BitVec 7) (channel : BitVec 4)
  | programChange (program : BitVec 7) (channel : BitVec 4)
  | pitchBend (value : Int) (channel : BitVec 4)
deriving DecidableEq, Repr

end Sys2Proof
end

