-- ==== Sys2Proof/Machine/State.lean ====
section
/-! DEFINITION. The machine's state: the block's own state `P`, `V`, `S` (R20), the configuration it was built with
(R37), the environment that answers its port reads (R70 to R72), the input items still to come (R7) and the outputs a
claim is about (R8). Also the ways a step can stop, and the state after reset (R300). -/

namespace Sys2Proof.Machine

/-- The parser state `P` (R21 to R25). `rs = 0` is "no running status". -/
structure Parser where
  /-- `P.rs`, the running-status byte (R21). -/
  rs : Byte
  /-- `P.channel` (R22). -/
  channel : BitVec 4
  /-- `P.command` (R22). -/
  command : BitVec 4
  /-- `P.expected`, the expected data-byte count (R23). -/
  expected : BitVec 2
  /-- `P.received`, the data bytes accumulated so far (R24). -/
  received : BitVec 2
  /-- `P.data1`, the first data byte (R25). -/
  data1 : BitVec 7
  /-- `P.data2`, the second data byte (R25). -/
  data2 : BitVec 7
deriving DecidableEq, Repr

/-- `P` after reset and after any system-common byte: every field 0 (R123, R300). -/
def Parser.reset : Parser := ⟨0, 0, 0, 0, 0, 0, 0⟩

/-- One entry of the voice table (R28). -/
structure Voice where
  active : Bool
  note : BitVec 7
  velocity : BitVec 7
  channel : BitVec 4
  /-- The allocation stamp, an unbounded natural number; 0 means never stamped (R28, R30). -/
  allocatedAt : Nat
deriving DecidableEq, Repr

/-- A voice after reset and after `init` (R28, R210, R300). -/
def Voice.empty : Voice := ⟨false, 0, 0, 0, 0⟩

/-- The known backend kinds: one, the PSG (R34). -/
inductive Backend where
  | psg
deriving DecidableEq, Repr

/-- The PSG behind the two ports (R40 to R42): sixteen registers and the hidden select latch. -/
structure Psg where
  /-- `psg.addr`, the register-select latch (R42). -/
  addr : BitVec 4
  /-- `psg.reg[0..15]` (R40). -/
  reg : Vector Byte 16
deriving DecidableEq, Repr

/-- What answers a port read (R70 to R72). -/
inductive Env where
  /-- Any byte at all (R70): first the listed answers, which the environment chose, then free values
  (`Config.readAnswer`, log entry 3). `reads` counts the answers given. -/
  | unconstrained (answers : List Byte) (reads : Nat)
  /-- The present chip (R71). -/
  | present (psg : Psg)
  /-- The absent chip: every read returns `x`, every write is ignored (R72). -/
  | absent (x : Byte)
deriving DecidableEq, Repr

/-- One entry of the bus trace (R60). -/
inductive BusAction where
  /-- `W(p, v)`. -/
  | write (port value : Byte)
  /-- `R(p) = v`. -/
  | read (port value : Byte)
  /-- `S`. -/
  | settle
  /-- `MASK`. -/
  | mask
  /-- `UNMASK`. -/
  | unmask
deriving DecidableEq, Repr

/-- The machine. -/
structure State where
  /-- `cfg`, fixed at construction; no rule writes it (R37). Log entry 1. -/
  cfg : Config
  /-- `P` (R20 to R26). -/
  parser : Parser
  /-- `V[0..N-1]` (R28). -/
  voices : List Voice
  /-- `S.counter` (R30). -/
  counter : Nat
  /-- `S.lvl[0..2]`, the level shadows (R36): bits 3:0 the volume, bit 4 the envelope-mode bit (R32). -/
  lvl : Vector (BitVec 5) 3
  /-- `S.irq_mask` (R33). -/
  irqMask : Bool
  /-- `S.detected`, one bit per known kind, the PSG bit 0 (R34). -/
  detected : BitVec 1
  /-- `S.active` (R35). -/
  active : Option Backend
  /-- The environment behind the ports; not the block's (R40, R70). -/
  env : Env
  /-- The items still to be taken, first to come first (R7). -/
  input : List Item
  /-- The Events emitted so far, oldest first: observable (a) of R8. -/
  events : List Event
  /-- The bus trace so far, oldest first: observable (b) of R8 (R60). -/
  trace : List BusAction
  /-- The results of the host commands taken so far, oldest first: observable (c) of R8; `none` where R185 gives no
  result. -/
  results : List (Option Bool)
deriving DecidableEq, Repr

/-- The ways a step could stop with a fault. There are none: nothing in the block raises, traps or faults (R270), and
no byte is an error (R277). -/
inductive Fault where
deriving DecidableEq, Repr

/-- The ways a step is refused. Only a host `Op` is ever refused, and only where the spec gives it no meaning (R185,
R29); each is safe: the model stops, the spec says nothing. -/
inductive Refusal where
  /-- Raised by an arm of exec whose instruction has no meaning yet; no arm is. Safe. -/
  | notModelled (mnemonic : String)
  /-- Raised by a host `Op` with `voice >= N` (R185, U20). Safe. -/
  | voiceOutOfRange
  /-- Raised by a host `note_on` with `note > 127` (R185, U20). Safe. -/
  | noteOutOfRange
  /-- Raised by a host `note_on` with `velocity > 127` (R185, U20). Safe. -/
  | velocityOutOfRange
  /-- Raised by a host `note_on` with `channel > 15` (R185, U20). Safe. -/
  | channelOutOfRange
  /-- Raised by a host `set_pitch_bend` outside `-8192..8191` (R185, U20). Safe. -/
  | bendOutOfRange
  /-- Raised by a host `note_on` that would make two active voices match one `(note, channel)`: "the spec gives that no
  meaning" (R29, U21). Safe. -/
  | duplicateNote
deriving DecidableEq, Repr

/-- The block right after construction with `cfg`, before an environment `env` (R300, R301): every piece of `P`, `V`
and `S` at its reset value, the event output and the bus trace empty. -/
def State.initial (cfg : Config) (env : Env) : State where
  cfg := cfg
  parser := Parser.reset
  voices := List.replicate cfg.n Voice.empty
  counter := 0
  lvl := Vector.replicate 3 0
  irqMask := false
  detected := 0
  active := none
  env := env
  input := []
  events := []
  trace := []
  results := []

/-- The machine right after reset (R300): the reference parameters P0 (log entry 1) before an environment that may
answer anything, since the chip's contents at reset are arbitrary (R302, R70; log entry 3). -/
def State.reset : State := State.initial Config.p0 (.unconstrained [] 0)

end Sys2Proof.Machine
end

