-- ==== Sys2Proof/Machine/Ops.lean ====
section
/-! DEFINITION. The named operations over the state: the PortIO primitives and what the environment makes of them (R60,
R70 to R72), the two transactions `RegWrite` and `RegRead` (R62, R63), writes of the voice table, the shadows and the
other registers, the outputs, and the block's reset (R300). There is no trap entry and no trap return to model: the
block has no trap mechanism (R270). -/

namespace Sys2Proof.Machine

/-! ### The environment -/

/-- `psg.reg[i]` (R40). -/
def Psg.read (p : Psg) (i : BitVec 4) : Byte := p.reg.get i.toFin

/-- The mask of the bits register `i` stores (R12, R41). -/
def wmask (cfg : Config) (i : BitVec 4) : Byte := cfg.psgWmask.get i.toFin

/-- `psg.reg[i] <- v & psg_wmask[i]` (R71). -/
def Psg.write (cfg : Config) (p : Psg) (i : BitVec 4) (v : Byte) : Psg :=
  { p with reg := p.reg.set i.toNat (v &&& wmask cfg i) i.isLt }

/-- What the environment makes of `W(port, v)` (R70 to R72). -/
def Env.onWrite (cfg : Config) (port v : Byte) : Env → Env
  | .present p =>
    if port = cfg.addrPort then .present { p with addr := v.setWidth 4 }
    else if port = cfg.dataPort then .present (p.write cfg p.addr v)
    else .present p
  | .absent x => .absent x
  | .unconstrained answers reads => .unconstrained answers reads

/-- The byte the environment answers to a read of the data port (R70 to R72). -/
def Env.answer : Env → Byte
  | .present p => p.read p.addr
  | .absent x => x
  | .unconstrained (a :: _) _ => a
  | .unconstrained [] reads => Config.readAnswer reads

/-- The environment after it has answered a read: only the unconstrained one has moved on to its next answer. -/
def Env.onRead : Env → Env
  | .present p => .present p
  | .absent x => .absent x
  | .unconstrained answers reads => .unconstrained answers.tail (reads + 1)

/-! ### PortIO (R60) and the two transactions -/

/-- One entry is appended to the bus trace (R60). -/
def State.addTrace (s : State) (a : BusAction) : State := { s with trace := s.trace ++ [a] }

/-- `PortWrite(p, v)` (R60). -/
def portWrite (port v : Byte) (s : State) : State :=
  { s with trace := s.trace ++ [.write port v], env := s.env.onWrite s.cfg port v }

/-- `Settle` (R60): its place in the trace is all there is of it (R310). -/
def settle (s : State) : State := s.addTrace .settle

/-- `PortRead(DATA_PORT) -> v` (R60, R61): the select port is never read. -/
def portRead (s : State) : Byte × State :=
  (s.env.answer, { s with trace := s.trace ++ [.read s.cfg.dataPort s.env.answer], env := s.env.onRead })

/-- `IrqMask` (R60, R251). -/
def irqMask (s : State) : State := { s with trace := s.trace ++ [.mask], irqMask := true }

/-- `IrqUnmask` (R60, R257). -/
def irqUnmask (s : State) : State := { s with trace := s.trace ++ [.unmask], irqMask := false }

/-- `RegWrite(r, v)` (R62). -/
def regWrite (r v : Byte) (s : State) : State :=
  settle (portWrite s.cfg.dataPort v (settle (portWrite s.cfg.addrPort r s)))

/-- `RegRead(r) -> v` (R63). -/
def regRead (r : Byte) (s : State) : Byte × State :=
  portRead (settle (portWrite s.cfg.addrPort r s))

/-- The `RegWrite`s of a list, in order (R74). -/
def regWrites (ws : List (Byte × Byte)) (s : State) : State :=
  ws.foldl (fun s w => regWrite w.1 w.2 s) s

/-! ### Registers of the block -/

/-- Write `P`; only the parser does (R21, R283). -/
def State.setParser (s : State) (p : Parser) : State := { s with parser := p }

/-- `V[v]` (R28); a voice index a rule produces is always below `N` (R29). -/
def State.voice (s : State) (v : Nat) : Voice := (s.voices[v]?).getD Voice.empty

/-- Write `V[v]` (R28). -/
def State.setVoice (s : State) (v : Nat) (x : Voice) : State := { s with voices := s.voices.set v x }

/-- `S.lvl[v]` (R36). -/
def State.shadow (s : State) (v : Nat) : BitVec 5 := (s.lvl[v]?).getD 0

/-- Write `S.lvl[v]` (R36). -/
def State.setShadow (s : State) (v : Nat) (x : BitVec 5) : State := { s with lvl := s.lvl.setIfInBounds v x }

/-- `stamp(v)`: the counter goes up by one and voice `v` takes its new value (R151). -/
def stamp (v : Nat) (s : State) : State :=
  { s with
    counter := s.counter + 1
    voices := s.voices.set v { s.voice v with allocatedAt := s.counter + 1 } }

/-- The bit number of a known kind in the detected set (R34). -/
def Backend.bit : Backend → Nat
  | .psg => 0

/-- The known kinds, in kind order (R34, R182). -/
def knownKinds : List Backend := [.psg]

/-- The known kind with bit number `k`, if there is one (R34, R183). -/
def kindOf (k : Nat) : Option Backend := knownKinds.find? fun b => b.bit == k

/-- `kind in S.detected` (R34). -/
def State.isDetected (s : State) (b : Backend) : Bool := s.detected.getLsbD b.bit

/-- Add a kind to `S.detected` (R182). -/
def State.addDetected (s : State) (b : Backend) : State :=
  { s with detected := s.detected ||| BitVec.twoPow 1 b.bit }

/-- Set `S.detected` (R182). -/
def State.setDetected (s : State) (d : BitVec 1) : State := { s with detected := d }

/-- Set `S.active` (R183). -/
def State.setActive (s : State) (b : Option Backend) : State := { s with active := b }

/-- The items still to come are `q` (R7). -/
def State.setInput (s : State) (q : List Item) : State := { s with input := q }

/-- Append an Event to the event output (R14, R120). -/
def State.addEvent (s : State) (e : Event) : State := { s with events := s.events ++ [e] }

/-- Append the result of a host command (R8, R185). -/
def State.addResult (s : State) (r : Option Bool) : State := { s with results := s.results ++ [r] }

/-- The reset of the block, for the commands `Reset` and `Reinit` (R300, R301, R186): every piece of `P`, `V` and `S` is
written its reset value and nothing else is; `cfg` is kept and the bus sees nothing. The environment, the items to come
and the outputs of the run so far are not the block's state and stay (R20, R74; log entry 8). -/
def resetBlock (s : State) : State :=
  { s with
    parser := Parser.reset
    voices := List.replicate s.cfg.n Voice.empty
    counter := 0
    lvl := Vector.replicate 3 0
    irqMask := false
    detected := 0
    active := none }

/-- `voices()`: read access to the voice table (R235). -/
def State.readVoices (s : State) : List Voice := s.voices

/-- `voice_count()` (R235). -/
def State.voiceCount (s : State) : Nat := s.cfg.n

end Sys2Proof.Machine
end

