-- ==== Sys2Proof/Machine/Allocator.lean ====
section
/-! DEFINITION. The voice allocator (R150 to R158): its scans of the voice table, ascending from index 0, and
`allocate`. It never touches the bus. -/

namespace Sys2Proof.Machine

/-- An active voice that sounds `note` on `channel` (R155). -/
def Voice.sounds (x : Voice) (note : BitVec 7) (channel : BitVec 4) : Bool :=
  x.active && x.note == note && x.channel == channel

/-- `find_by_note(note, channel)`: the lowest index of an active voice that matches (R155). -/
def findByNote (note : BitVec 7) (channel : BitVec 4) (s : State) : Option Nat :=
  s.voices.findIdx? fun x => x.sounds note channel

/-- `first_active()` (R156). -/
def firstActive (s : State) : Option Nat := s.voices.findIdx? fun x => x.active

/-- The steal scan: the best voice so far has index `best` and stamp `stamp`; the rest of the table starts at index
`i`. A voice replaces the best only with a strictly smaller stamp, so the lowest index wins a tie (R152, R153). -/
def oldestFrom (best stamp i : Nat) : List Voice → Nat
  | [] => best
  | x :: rest =>
    if x.allocatedAt < stamp then oldestFrom i x.allocatedAt (i + 1) rest else oldestFrom best stamp (i + 1) rest

/-- The voice with the oldest stamp; the scan starts at voice 0 (R152). -/
def oldest : List Voice → Nat
  | [] => 0
  | x :: rest => oldestFrom 0 x.allocatedAt 1 rest

/-- The index `allocate` takes: the first inactive slot, else the oldest voice (R152, R158). -/
def allocIndex (s : State) : Nat :=
  match s.voices.findIdx? fun x => !x.active with
  | some v => v
  | none => oldest s.voices

/-- `allocate(note, velocity, channel)`: the index taken, and the state with that slot active, holding its three
arguments and stamped (R152). -/
def allocate (note velocity : BitVec 7) (channel : BitVec 4) (s : State) : Nat × State :=
  (allocIndex s,
    stamp (allocIndex s)
      (s.setVoice (allocIndex s)
        { s.voice (allocIndex s) with active := true, note := note, velocity := velocity, channel := channel }))

end Sys2Proof.Machine
end

