-- ==== Sys2Proof/Machine/Detect.lean ====
section
/-! DEFINITION. The detection protocol (R250 to R263), the one operation that reads the bus and masks interrupts. -/

namespace Sys2Proof.Machine

/-- The four checkpointed register values (R252). -/
structure Checkpoint where
  mix : Byte
  l0 : Byte
  l1 : Byte
  f : Byte
deriving DecidableEq, Repr

/-- The four test patterns, in order (R253). -/
def patterns : List Byte := [0x00, 0x55, 0xAA, 0xFF]

/-- Read the four registers to restore: `MIXER`, `LEVEL[0]`, `LEVEL[1]`, `TONE_LO[0]` (R252). -/
def checkpoint (s : State) : Checkpoint × State :=
  let a := regRead s.cfg.mixer s
  let b := regRead s.cfg.level[0] a.2
  let c := regRead s.cfg.level[1] b.2
  let d := regRead s.cfg.toneLo[0] c.2
  (⟨a.1, b.1, c.1, d.1⟩, d.2)

/-- Write each pattern to register `r`, read it back, compare under `mask`; stop at the first mismatch (R253, R254,
R258). -/
def testPatterns (r mask : Byte) : List Byte → State → Bool × State
  | [], s => (true, s)
  | pat :: rest, s =>
    let rd := regRead r (regWrite r pat s)
    if rd.1 &&& mask = pat &&& mask then testPatterns r mask rest rd.2 else (false, rd.2)

/-- The frequency test: an exact read-back of the sentinel (R255). -/
def testSentinel (s : State) : Bool × State :=
  let rd := regRead s.cfg.toneLo[0] (regWrite s.cfg.toneLo[0] s.cfg.detectSentinel s)
  (rd.1 == s.cfg.detectSentinel, rd.2)

/-- The three tests, each only if the one before it passed (R253 to R255, R258). -/
def runTests (s : State) : Bool × State :=
  let m := testPatterns s.cfg.mixer s.cfg.mixerRwMask patterns s
  if m.1 then
    let l := testPatterns s.cfg.level[0] s.cfg.levelRwMask patterns m.2
    if l.1 then testSentinel l.2 else l
  else m

/-- Write the checkpointed values back, in checkpoint order (R256). -/
def restore (c : Checkpoint) (s : State) : State :=
  regWrites [(s.cfg.mixer, c.mix), (s.cfg.level[0], c.l0), (s.cfg.level[1], c.l1), (s.cfg.toneLo[0], c.f)] s

/-- `detect_PSG() -> bool` (R250): masked from the first action to the last, restored on every path (R251, R256,
R257). -/
def detectPsg (s : State) : Bool × State :=
  let c := checkpoint (irqMask s)
  let t := runTests c.2
  (t.1, irqUnmask (restore c.1 t.2))

end Sys2Proof.Machine
end

