-- ==== Sys2Proof/Machine/Flags.lean ====
section
/-! DEFINITION. The one flag that is computed: the hardware-envelope-mode bit of a level value (R31, R32). The block has
no arithmetic condition codes (R31). A level value has the volume in bits 3:0 and the mode in bit 4. -/

namespace Sys2Proof.Machine

/-- The envelope-mode bit of a level value (R32). -/
def envelopeMode (x : BitVec 5) : Bool := x.getLsbD 4

/-- The 4-bit volume of a level value (R32). -/
def levelVolume (x : BitVec 5) : BitVec 4 := x.extractLsb' 0 4

/-- A level value with the mode bit 0: `note_on`, `set_sustain` (R213, R218). -/
def levelPlain (volume : BitVec 4) : BitVec 5 := 0#1 ++ volume

/-- `(x & 0x10) | volume`: the mode bit is kept, `set_volume` (R215). -/
def levelKeepMode (x : BitVec 5) (volume : BitVec 4) : BitVec 5 := (x &&& 0x10) ||| levelPlain volume

/-- `0x10 | (x & 0x0F)`: the mode bit is set, the volume kept, `set_attack` (R216). -/
def levelToEnvelope (x : BitVec 5) : BitVec 5 := 0x10 ||| (x &&& 0x0F)

end Sys2Proof.Machine
end

