-- ==== Sys2Proof/Machine/Operands.lean ====
section
/-! DEFINITION. The operands and the arithmetic of the driver (R201 to R208, R230 to R232, R240), the register each
voice drives (R200), and the immediates of the protocol (R94, R98). Arithmetic is over the integers and is narrowed by
name at the end (R13). -/

namespace Sys2Proof.Machine

/-! ### The protocol -/

/-- `expected_of(command)` (R94). -/
def expectedOf (command : BitVec 4) : BitVec 2 :=
  match command with
  | 0x8#4 => 2
  | 0x9#4 => 2
  | 0xB#4 => 2
  | 0xE#4 => 2
  | 0xC#4 => 1
  | _ => 0

/-- The pitch-bend value `((data2 << 7) | data1) - 8192` (R98). -/
def bendValue (data1 data2 : BitVec 7) : Int := ((data2 ++ data1).toNat : Int) - 8192

/-- A 7-bit protocol value as the 8-bit argument of a backend operation (R236). -/
def wide (v : BitVec 7) : Byte := v.setWidth 8

/-! ### Registers of a voice (R200) -/

/-- `TONE_LO[v]`. -/
def toneLoReg (cfg : Config) (v : Nat) : Byte := (cfg.toneLo[v]?).getD 0

/-- `TONE_HI[v]`. -/
def toneHiReg (cfg : Config) (v : Nat) : Byte := (cfg.toneHi[v]?).getD 0

/-- `LEVEL[v]`. -/
def levelReg (cfg : Config) (v : Nat) : Byte := (cfg.level[v]?).getD 0

/-! ### Arithmetic -/

/-- `clamp_note(n)` (R201). -/
def clampNote (cfg : Config) (note : BitVec 7) : Nat := max cfg.noteMin (min cfg.noteMax note.toNat)

/-- `note_to_period(n)` (R202). -/
def noteToPeriod (cfg : Config) (note : BitVec 7) : Nat :=
  (cfg.period[clampNote cfg note - cfg.noteMin]?).getD 1

/-- `vol4(x) = min(15, x >> 3)` (R204). -/
def vol4 (x : Byte) : BitVec 4 := BitVec.ofNat 4 (min 15 (x.toNat >>> 3))

/-- `scale8(x) = min(255, 2 * x)` (R205). -/
def scale8 (x : Byte) : Byte := BitVec.ofNat 8 (min 255 (2 * x.toNat))

/-- `env_bytes(s)` (R12). -/
def envPair (cfg : Config) (s : Byte) : Byte × Byte := (cfg.envBytes[s.toNat]?).getD (0, 0)

/-- The bent period: `clamp(base - tdiv(base * value, BEND_K), 1, 4095)`, the product exact, the quotient truncated
toward zero (R230 to R232). -/
def bentPeriod (cfg : Config) (base : Nat) (value : Int) : Nat :=
  (max 1 (min 4095 ((base : Int) - ((base : Int) * value).tdiv cfg.bendK))).toNat

/-- `cc_map(controller)` (R12). -/
def ccAction (cfg : Config) (controller : BitVec 7) : CcAction := (cfg.ccMap[controller.toNat]?).getD .none

/-! ### Register writes of the driver, as (index, value) pairs in bus order -/

/-- `write_period(v, p)`: low byte first, bits 7:4 of the high byte 0 (R65, R206). -/
def periodWrites (cfg : Config) (v p : Nat) : List (Byte × Byte) :=
  [(toneLoReg cfg v, BitVec.ofNat 8 p), (toneHiReg cfg v, ((BitVec.ofNat 12 p).extractLsb' 8 4).setWidth 8)]

/-- The write of `write_level(v, x)`: bits 7:5 are 0 (R32, R207). -/
def levelWrite (cfg : Config) (v : Nat) (x : BitVec 5) : Byte × Byte := (levelReg cfg v, x.setWidth 8)

/-- `write_env_period(x)`: `ENV_LO` first (R66, R208). -/
def envPeriodWrites (cfg : Config) (x : Byte) : List (Byte × Byte) :=
  [(cfg.envLo, (envPair cfg (scale8 x)).1), (cfg.envHi, (envPair cfg (scale8 x)).2)]

/-- A write of the envelope shape, bits 7:4 zero (R217, R233). -/
def shapeWrite (cfg : Config) (shape : BitVec 4) : Byte × Byte := (cfg.envShape, shape.setWidth 8)

/-- The fourteen writes of `init`, in order (R210). -/
def initWrites (cfg : Config) : List (Byte × Byte) :=
  [(cfg.toneLo[0], 0), (cfg.toneHi[0], 0), (cfg.toneLo[1], 0), (cfg.toneHi[1], 0), (cfg.toneLo[2], 0), (cfg.toneHi[2], 0),
    (cfg.noise, 0), (cfg.mixer, cfg.mixerInit), (cfg.level[0], 0), (cfg.level[1], 0), (cfg.level[2], 0),
    (cfg.envLo, 0), (cfg.envHi, 0), (cfg.envShape, 0)]

end Sys2Proof.Machine
end

