-- ==== Sys2Proof/Machine/Driver.lean ====
section
/-! DEFINITION. The register-level PSG driver (R200 to R236): each operation of the capability interface (R181) as a
sequence of `RegWrite` transactions and writes of the voice table and the level shadows. No operation here reads the
bus. -/

namespace Sys2Proof.Machine

/-- `write_period(v, p)` (R206). -/
def writePeriod (v p : Nat) (s : State) : State := regWrites (periodWrites s.cfg v p) s

/-- `write_level(v, x)` (R207). -/
def writeLevel (v : Nat) (x : BitVec 5) (s : State) : State :=
  regWrites [levelWrite s.cfg v x] (s.setShadow v x)

/-- `write_env_period(x)` (R208). -/
def writeEnvPeriod (x : Byte) (s : State) : State := regWrites (envPeriodWrites s.cfg x) s

/-- `init()` (R210): the counter, `P`, `S.detected` and `S.active` are not written. -/
def driverInit (s : State) : State :=
  regWrites (initWrites s.cfg)
    { s with voices := List.replicate s.cfg.n Voice.empty, lvl := Vector.replicate 3 0 }

/-- `reset()`, identical to `init()` (R211). -/
def driverReset (s : State) : State := driverInit s

/-- `note_off(voice)`, unconditional (R214). -/
def noteOff (v : Nat) (s : State) : State :=
  (writeLevel v 0 s).setVoice v { s.voice v with active := false }

/-- `all_off()`: `note_off` on every voice, ascending (R212). -/
def allOff (s : State) : State := (List.range s.cfg.n).foldl (fun s v => noteOff v s) s

/-- `panic()` (R234). -/
def driverPanic (s : State) : State := regWrites [(s.cfg.mixer, s.cfg.mixerOff)] (allOff s)

/-- `note_on(voice, note, velocity, channel)` (R213): period, then level with the mode bit 0, then the voice, with the
note as given, then a stamp. -/
def noteOn (v : Nat) (note velocity : BitVec 7) (channel : BitVec 4) (s : State) : State :=
  stamp v
    ((writeLevel v (levelPlain (vol4 (wide velocity))) (writePeriod v (noteToPeriod s.cfg note) s)).setVoice v
      { s.voice v with active := true, note := note, velocity := velocity, channel := channel })

/-- `set_volume(voice, value)` (R215). -/
def setVolume (v : Nat) (value : Byte) (s : State) : State :=
  writeLevel v (levelKeepMode (s.shadow v) (vol4 value)) s

/-- `set_attack(voice, value)` (R216). -/
def setAttack (v : Nat) (value : Byte) (s : State) : State :=
  writeLevel v (levelToEnvelope (s.shadow v)) (writeEnvPeriod value s)

/-- `set_decay(voice, value)`: 65 and above select the shape with decay (R217). -/
def setDecay (_ : Nat) (value : Byte) (s : State) : State :=
  regWrites [shapeWrite s.cfg (if 64 < value.toNat then s.cfg.shapeDecay else s.cfg.shapePlain)] s

/-- `set_sustain(voice, value)` (R218). -/
def setSustain (v : Nat) (value : Byte) (s : State) : State := writeLevel v (levelPlain (vol4 value)) s

/-- `set_release(voice, value)`: the envelope period alone (R219). -/
def setRelease (_ : Nat) (value : Byte) (s : State) : State := writeEnvPeriod value s

/-- `set_vibrato(value)`: accepted, no effect (R220). -/
def setVibrato (_ : Byte) (s : State) : State := s

/-- `set_tremolo(value)`: accepted, no effect (R221). -/
def setTremolo (_ : Byte) (s : State) : State := s

/-- `set_modulation(value)`: accepted, no effect (R222). -/
def setModulation (_ : Byte) (s : State) : State := s

/-- The bend of one voice: nothing if it is inactive (R230). -/
def bendVoice (value : Int) (v : Nat) (s : State) : State :=
  if (s.voice v).active then writePeriod v (bentPeriod s.cfg (noteToPeriod s.cfg (s.voice v).note) value) s else s

/-- `set_pitch_bend(value)`: every active voice, ascending; the bend is not remembered (R230, R315). -/
def setPitchBend (value : Int) (s : State) : State :=
  (List.range s.cfg.n).foldl (fun s v => bendVoice value v s) s

/-- `set_preset(program)`: a program beyond the table is ignored (R233). -/
def setPreset (program : Byte) (s : State) : State :=
  match s.cfg.presetShape[program.toNat]? with
  | some shape => regWrites [shapeWrite s.cfg shape] s
  | none => s

end Sys2Proof.Machine
end

