-- ==== Sys2Proof/Machine/Router.lean ====
section
/-! DEFINITION. The Dispatcher (R170 to R180), which turns an Event into operations of the active backend, and the chip
registry (R182 to R184). -/

namespace Sys2Proof.Machine

/-- NoteOff, and NoteOn with velocity 0 (R172, R173). -/
def routeNoteOff (note : BitVec 7) (channel : BitVec 4) (s : State) : State :=
  match findByNote note channel s with
  | some v => noteOff v s
  | none => s

/-- NoteOn with a velocity above 0: retrigger the voice already sounding, else allocate one (R171). -/
def routeNoteOn (note velocity : BitVec 7) (channel : BitVec 4) (s : State) : State :=
  match findByNote note channel s with
  | some v => noteOn v note velocity channel s
  | none => noteOn (allocate note velocity channel s).1 note velocity channel (allocate note velocity channel s).2

/-- A per-voice controller acts on the first active voice, and on nothing when there is none (R175). -/
def onFirstActive (f : Nat → State → State) (s : State) : State :=
  match firstActive s with
  | some v => f v s
  | none => s

/-- ControlChange (R174 to R176); the channel is not used (R180). -/
def routeControl (controller value : BitVec 7) (s : State) : State :=
  match ccAction s.cfg controller with
  | .none => s
  | .volume => onFirstActive (fun v => setVolume v (wide value)) s
  | .attack => onFirstActive (fun v => setAttack v (wide value)) s
  | .decay => onFirstActive (fun v => setDecay v (wide value)) s
  | .sustain => onFirstActive (fun v => setSustain v (wide value)) s
  | .release => onFirstActive (fun v => setRelease v (wide value)) s
  | .vibrato => setVibrato (wide value) s
  | .tremolo => setTremolo (wide value) s
  | .modulation => setModulation (wide value) s

/-- An Event at the PSG backend (R170). -/
def routePsg (e : Event) (s : State) : State :=
  match e with
  | .noteOn note velocity channel =>
    if velocity = 0 then routeNoteOff note channel s else routeNoteOn note velocity channel s
  | .noteOff note channel => routeNoteOff note channel s
  | .controlChange controller value _ => routeControl controller value s
  | .programChange program _ => setPreset (wide program) s
  | .pitchBend value _ => setPitchBend value s

/-- `dispatch(e)`: with no active backend the Event is dropped (R170, D11). -/
def dispatch (e : Event) (s : State) : State :=
  match s.active with
  | none => s
  | some .psg => routePsg e s

/-- `emit e`: append to the event output and dispatch (R14, R120). -/
def emit (e : Event) (s : State) : State := dispatch e (s.addEvent e)

/-! ### The chip registry -/

/-- The detection routine of a kind (R182). -/
def detectKind : Backend → State → Bool × State
  | .psg => detectPsg

/-- Detect one kind and record it if it answered (R182). -/
def detectInto (s : State) (b : Backend) : State :=
  let d := detectKind b s
  if d.1 then d.2.addDetected b else d.2

/-- `startup_detect()`: `S.detected <- {}`, then every known kind in order; nothing is selected (R182). -/
def startupDetect (s : State) : State := knownKinds.foldl detectInto (s.setDetected 0)

/-- `all_off` of the outgoing backend, if there is one (R183, C2). -/
def silenceOutgoing (s : State) : State :=
  match s.active with
  | some .psg => allOff s
  | none => s

/-- `init` of a kind (R183). -/
def initKind : Backend → State → State
  | .psg => driverInit

/-- `select(kind) -> bool` (R183): false, and nothing changed, for an unknown or undetected kind (R184). -/
def select (kind : Nat) (s : State) : Bool × State :=
  match kindOf kind with
  | none => (false, s)
  | some b =>
    if s.isDetected b then (true, initKind b ((silenceOutgoing s).setActive (some b))) else (false, s)

end Sys2Proof.Machine
end

