-- ==== Sys2Proof/WellFormed.lean ====
section
/-! DEFINITION. What is well formed: the constraints of `cfg`, each under its own name, and the domain of a host `Op`
(R185). An instruction is always well formed: every field of `Instr` has the width of its encoding and no byte value
is illegal (R102). -/

namespace Sys2Proof

/-- Why a configuration is refused at construction: one constructor per constraint of R9 to R12 (U3, U4, U23). -/
inductive ConfigError where
  /-- E6, `voice_count == 0` (R276, R154). -/
  | noVoices
  /-- More voices than the PSG's three tone channels (R9, R200). DEDUCED, safe, log entry 6. -/
  | tooManyVoices
  /-- E2 ValidationError: the two ports are equal (R272). -/
  | equalPorts
  /-- `T_SETTLE` is given and is not positive (R9). -/
  | settleNotPositive
  /-- The fourteen register indices are not pairwise distinct (R10). -/
  | indicesNotDistinct
  /-- `MIXER_RW_MASK = 0` (R11). -/
  | mixerMaskZero
  /-- `LEVEL_RW_MASK = 0` (R11). -/
  | levelMaskZero
  /-- `SHAPE_PLAIN = SHAPE_DECAY` (R11). -/
  | equalShapes
  /-- `PRESET_COUNT > 128` (R11). -/
  | tooManyPresets
  /-- Not `NOTE_MIN <= NOTE_MAX <= 127` (R12). -/
  | noteRange
  /-- `PERIOD` has not one entry per supported note (R12). -/
  | periodLength
  /-- An entry of `PERIOD` is outside 1 to 4095 (R12). -/
  | periodBounds
  /-- `PERIOD` is not non-increasing (R12). -/
  | periodOrder
  /-- `BEND_K < 8192` (R12). -/
  | bendKTooSmall
  /-- `cc_map` is not total over 0 to 127 (R12). -/
  | ccMapLength
  /-- `env_bytes` is not total over 0 to 255 (R12). -/
  | envBytesLength
  /-- `psg_wmask` does not store the bits detection compares (R12). -/
  | wmask
deriving DecidableEq, Repr

/-- The fourteen register indices, in the order `init` writes them (R10, R210). -/
def Config.indices (c : Config) : List Byte :=
  [c.toneLo[0], c.toneHi[0], c.toneLo[1], c.toneHi[1], c.toneLo[2], c.toneHi[2], c.noise, c.mixer,
    c.level[0], c.level[1], c.level[2], c.envLo, c.envHi, c.envShape]

/-- `xs` never rises (R12: `n1 <= n2` implies `PERIOD[n1] >= PERIOD[n2]`). -/
def nonIncreasing : List Nat → Bool
  | a :: b :: rest => decide (b ≤ a) && nonIncreasing (b :: rest)
  | _ => true

/-- The write mask of the register with index `r` in the present-chip environment: the latch keeps bits 3:0 (R71). -/
def Config.wmaskAt (c : Config) (r : Byte) : Byte :=
  c.psgWmask.get (r.setWidth 4).toFin

/-- The constraints on `psg_wmask` (R12): the bits detection compares are stored. -/
def Config.wmaskCovers (c : Config) : Bool :=
  (c.wmaskAt c.mixer &&& c.mixerRwMask == c.mixerRwMask) &&
    (c.wmaskAt c.level[0] &&& c.levelRwMask == c.levelRwMask) &&
    (c.wmaskAt c.toneLo[0] == 0xFF)

/-- The fourteen indices fit the 4-bit select latch of the present-chip environment (R42, R71). It is no constraint of
R10, which allows 8 bits: a statement about a present chip takes it as a premise. -/
def Config.chipFits (c : Config) : Bool :=
  c.indices.all fun r => decide (r.toNat < 16)

/-- Every constraint of R9 to R12 that `c` breaks, by name. -/
def Config.errors (c : Config) : List ConfigError :=
  [(decide (1 ≤ c.n), ConfigError.noVoices),
    (decide (c.n ≤ 3), .tooManyVoices),
    (c.addrPort != c.dataPort, .equalPorts),
    (c.tSettle != some 0, .settleNotPositive),
    (decide c.indices.Nodup, .indicesNotDistinct),
    (c.mixerRwMask != 0, .mixerMaskZero),
    (c.levelRwMask != 0, .levelMaskZero),
    (c.shapePlain != c.shapeDecay, .equalShapes),
    (decide (c.presetShape.length ≤ 128), .tooManyPresets),
    (decide (c.noteMin ≤ c.noteMax) && decide (c.noteMax ≤ 127), .noteRange),
    (c.period.length == c.noteMax + 1 - c.noteMin, .periodLength),
    (c.period.all (fun p => decide (1 ≤ p) && decide (p ≤ 4095)), .periodBounds),
    (nonIncreasing c.period, .periodOrder),
    (decide (8192 ≤ c.bendK), .bendKTooSmall),
    (c.ccMap.length == 128, .ccMapLength),
    (c.envBytes.length == 256, .envBytesLength),
    (c.wmaskCovers, .wmask)].filterMap fun p => if p.1 then none else some p.2

/-- `c` meets every constraint of R9 to R12. -/
def Config.valid (c : Config) : Bool := c.errors.isEmpty

/-- Every instruction is well formed: the widths of its fields are those of its encoding, and no value of a field is
reserved (R102). -/
def Instr.wellFormed (_ : Instr) : Bool := true

/-- The arguments of a host `Op` are in the domain R185 gives for `n` voices. -/
def BackendOp.wellFormed (n : Nat) : BackendOp → Bool
  | .noteOn voice note velocity channel =>
    decide (voice < n) && decide (note.toNat ≤ 127) && decide (velocity.toNat ≤ 127) && decide (channel.toNat ≤ 15)
  | .noteOff voice => decide (voice < n)
  | .setVolume voice _ => decide (voice < n)
  | .setAttack voice _ => decide (voice < n)
  | .setDecay voice _ => decide (voice < n)
  | .setSustain voice _ => decide (voice < n)
  | .setRelease voice _ => decide (voice < n)
  | .setPitchBend value => decide (-8192 ≤ value) && decide (value ≤ 8191)
  | .init | .reset | .allOff | .setVibrato _ | .setTremolo _ | .setModulation _ | .setPreset _ | .panic => true

end Sys2Proof
end

