-- ==== Sys2Proof/Machine/Commands.lean ====
section
/-! DEFINITION. The host commands (R185, R186): each one input item, taken to completion, with its result appended to
the results. An `Op` outside the domain R185 gives, or one that R29 gives no meaning, is refused by name. -/

namespace Sys2Proof.Machine

open Host

/-- A voice other than `v` already sounds `(note, channel)`: a direct `note_on` at `v` would break the invariant of R29. -/
def soundsElsewhere (v : Nat) (note : BitVec 7) (channel : BitVec 4) (s : State) : Bool :=
  (List.range s.voices.length).any fun w => w != v && (s.voice w).sounds note channel

/-- The first argument of a backend operation that is outside its domain (R185, R236, C6). -/
def argError (n : Nat) : BackendOp → Option Refusal
  | .noteOn voice note velocity channel =>
    if n ≤ voice then some .voiceOutOfRange
    else if 127 < note.toNat then some .noteOutOfRange
    else if 127 < velocity.toNat then some .velocityOutOfRange
    else if 15 < channel.toNat then some .channelOutOfRange
    else none
  | .noteOff voice => if n ≤ voice then some .voiceOutOfRange else none
  | .setVolume voice _ => if n ≤ voice then some .voiceOutOfRange else none
  | .setAttack voice _ => if n ≤ voice then some .voiceOutOfRange else none
  | .setDecay voice _ => if n ≤ voice then some .voiceOutOfRange else none
  | .setSustain voice _ => if n ≤ voice then some .voiceOutOfRange else none
  | .setRelease voice _ => if n ≤ voice then some .voiceOutOfRange else none
  | .setPitchBend value => if value < -8192 ∨ 8191 < value then some .bendOutOfRange else none
  | .init | .reset | .allOff | .setVibrato _ | .setTremolo _ | .setModulation _ | .setPreset _ | .panic => none

/-- A direct `note_on` that the active backend would take, and that R29 gives no meaning (U21; log entry 7). -/
def duplicateError (f : BackendOp) (s : State) : Option Refusal :=
  match f, s.active with
  | .noteOn voice note _ channel, some .psg =>
    if soundsElsewhere voice (note.setWidth 7) (channel.setWidth 4) s then some .duplicateNote else none
  | _, _ => none

/-- Why an `Op` is refused, if it is (R185, R29). -/
def opError (f : BackendOp) (s : State) : Option Refusal := (argError s.cfg.n f).or (duplicateError f s)

/-- A backend operation of the PSG driver (R181, R185). -/
def runOp (f : BackendOp) (s : State) : State :=
  match f with
  | .init => driverInit s
  | .reset => driverReset s
  | .allOff => allOff s
  | .noteOn voice note velocity channel =>
    noteOn voice (note.setWidth 7) (velocity.setWidth 7) (channel.setWidth 4) s
  | .noteOff voice => noteOff voice s
  | .setVolume voice value => setVolume voice value s
  | .setAttack voice value => setAttack voice value s
  | .setDecay voice value => setDecay voice value s
  | .setSustain voice value => setSustain voice value s
  | .setRelease voice value => setRelease voice value s
  | .setVibrato value => setVibrato value s
  | .setTremolo value => setTremolo value s
  | .setModulation value => setModulation value s
  | .setPitchBend value => setPitchBend value s
  | .setPreset program => setPreset program s
  | .panic => driverPanic s

/-- Do `f` if the PSG is active, else nothing: `Panic` and `Op` (R185). -/
def ifActive (f : State → State) (s : State) : State :=
  match s.active with
  | some .psg => f s
  | none => s

/-- `Op(f, args)` (R185). -/
def execOp (f : BackendOp) (s : State) : Outcome State Fault Refusal :=
  match opError f s with
  | some r => .refused r
  | none => .next ((ifActive (runOp f) s).addResult none)

/-- A host command (R185, R186). -/
def execCmd (c : HostCmd) (s : State) : Outcome State Fault Refusal :=
  match c with
  | .reset => .next ((resetBlock s).addResult none)
  | .detect => .next ((startupDetect s).addResult (some ((startupDetect s).isDetected .psg)))
  | .select kind => .next ((select kind s).2.addResult (some (select kind s).1))
  | .panic => .next ((ifActive driverPanic s).addResult none)
  | .reinit => .next ((resetBlock s).addResult none)
  | .op f => execOp f s

end Sys2Proof.Machine
end

