-- ==== Sys2Proof/Decode.lean ====
section
/-! DEFINITION. Reading an instruction from a unit of the byte stream, and writing one. A byte item is read by its
class alone (R90, R91), a named system byte under its own name (R103); a message unit is read as a message row (R95) or
an elided form (R99). Between them the two readings reach every row of the table. DESIGN CHOICE, safe, log entry 2. -/

namespace Sys2Proof

/-- Bits 7:4 of a byte, its high nibble (R13). -/
def highNibble (b : Byte) : BitVec 4 := b.extractLsb' 4 4

/-- Bits 3:0 of a byte, its low nibble (R13). -/
def lowNibble (b : Byte) : BitVec 4 := b.extractLsb' 0 4

/-- Bit 7 of a byte: a status byte has it set, a data byte clear (R90). -/
def isStatus (b : Byte) : Bool := b.getLsbD 7

/-- A data byte has bit 7 clear (R90). -/
def isData (b : Byte) : Bool := !b.getLsbD 7

/-- The 7-bit immediate of a data byte, `d = b[6:0]` (R96). -/
def dataField (b : Byte) : BitVec 7 := b.extractLsb' 0 7

/-- The byte `{0, d}` (R91). -/
def dataByteOf (d : BitVec 7) : Byte := 0#1 ++ d

/-- The status byte `{command, channel}` (R92). -/
def statusByteOf (command channel : BitVec 4) : Byte := command ++ channel

/-- Why a message unit is no message row. -/
inductive DecodeError where
  /-- The unit holds no byte. -/
  | noByte
  /-- One status byte whose message needs data bytes (R108). -/
  | incomplete
  /-- Two or three bytes that are no `PC`, `RS2` or three-byte message (R95, R99). -/
  | notAMessage
  /-- More than three bytes: no message is longer (R95, R108). -/
  | tooLong
deriving DecidableEq, Repr

/-- A system byte, `0xF0` to `0xFF`, by its low nibble and under its own name (R103). -/
def decodeSystem (low : BitVec 4) : Instr :=
  match low with
  | 0x0#4 => .sysF0
  | 0x1#4 => .sysF1
  | 0x2#4 => .sysF2
  | 0x3#4 => .sysF3
  | 0x4#4 => .sysF4
  | 0x5#4 => .sysF5
  | 0x6#4 => .sysF6
  | 0x7#4 => .sysF7
  | 0x8#4 => .rtF8
  | 0x9#4 => .rtF9
  | 0xA#4 => .rtFA
  | 0xB#4 => .rtFB
  | 0xC#4 => .rtFC
  | 0xD#4 => .rtFD
  | 0xE#4 => .rtFE
  | _ => .rtFF

/-- A byte item, total over the 256 values (R90, R91, R93). -/
def decodeByte (b : Byte) : Instr :=
  if isData b then .data (dataField b)
  else
    match highNibble b with
    | 0x8#4 => .stNoteOff (lowNibble b)
    | 0x9#4 => .stNoteOn (lowNibble b)
    | 0xA#4 => .stPolyp (lowNibble b)
    | 0xB#4 => .stCc (lowNibble b)
    | 0xC#4 => .stPc (lowNibble b)
    | 0xD#4 => .stChanp (lowNibble b)
    | 0xE#4 => .stPb (lowNibble b)
    | _ => decodeSystem (lowNibble b)

/-- A one-byte message: `RS1`, `POLYP`, `CHANP`, `SYSCOM`, `RT` (R95, R99). -/
def decodeM1 (b : Byte) : Except DecodeError Instr :=
  if isData b then .ok (.rs1 (dataField b))
  else
    match highNibble b with
    | 0xA#4 => .ok (.polyp (lowNibble b))
    | 0xD#4 => .ok (.chanp (lowNibble b))
    | 0xF#4 =>
      if b.getLsbD 3 then .ok (.rt (b.extractLsb' 0 3)) else .ok (.syscom (b.extractLsb' 0 3))
    | _ => .error .incomplete

/-- A two-byte message: `RS2`, `PC` (R95, R99). -/
def decodeM2 (b d : Byte) : Except DecodeError Instr :=
  if isStatus d then .error .notAMessage
  else if isData b then .ok (.rs2 (dataField b) (dataField d))
  else if highNibble b = 0xC#4 then .ok (.pc (lowNibble b) (dataField d))
  else .error .notAMessage

/-- A three-byte message: `NOTEOFF`, `NOTEON`, `CC`, `PB` (R95). -/
def decodeM3 (b d e : Byte) : Except DecodeError Instr :=
  if isStatus d || isStatus e then .error .notAMessage
  else
    match highNibble b with
    | 0x8#4 => .ok (.noteOff (lowNibble b) (dataField d) (dataField e))
    | 0x9#4 => .ok (.noteOn (lowNibble b) (dataField d) (dataField e))
    | 0xB#4 => .ok (.cc (lowNibble b) (dataField d) (dataField e))
    | 0xE#4 => .ok (.pb (lowNibble b) (dataField d) (dataField e))
    | _ => .error .notAMessage

/-- A message unit: exactly one message row or elided form (R95, R99), or a rejection by name. -/
def decodeMessage : List Byte → Except DecodeError Instr
  | [] => .error .noByte
  | [b] => decodeM1 b
  | [b, d] => decodeM2 b d
  | [b, d, e] => decodeM3 b d e
  | _ => .error .tooLong

/-- The instruction a unit of the stream holds. -/
def decode : InputUnit → Except DecodeError Instr
  | .byte b => .ok (decodeByte b)
  | .message bs => decodeMessage bs

/-- The unit an instruction is written as, from the encodings of R91, R95, R99 and R103. -/
def encode : Instr → InputUnit
  | .data d => .byte (dataByteOf d)
  | .stNoteOff c => .byte (statusByteOf 0x8 c)
  | .stNoteOn c => .byte (statusByteOf 0x9 c)
  | .stPolyp c => .byte (statusByteOf 0xA c)
  | .stCc c => .byte (statusByteOf 0xB c)
  | .stPc c => .byte (statusByteOf 0xC c)
  | .stChanp c => .byte (statusByteOf 0xD c)
  | .stPb c => .byte (statusByteOf 0xE c)
  | .syscom s => .message [0b11110#5 ++ s]
  | .rt r => .message [0b11111#5 ++ r]
  | .noteOff c n v => .message [statusByteOf 0x8 c, dataByteOf n, dataByteOf v]
  | .noteOn c n v => .message [statusByteOf 0x9 c, dataByteOf n, dataByteOf v]
  | .cc c k v => .message [statusByteOf 0xB c, dataByteOf k, dataByteOf v]
  | .pc c p => .message [statusByteOf 0xC c, dataByteOf p]
  | .pb c l m => .message [statusByteOf 0xE c, dataByteOf l, dataByteOf m]
  | .polyp c => .message [statusByteOf 0xA c]
  | .chanp c => .message [statusByteOf 0xD c]
  | .rs2 x y => .message [dataByteOf x, dataByteOf y]
  | .rs1 x => .message [dataByteOf x]
  | .sysF0 => .byte 0xF0
  | .sysF1 => .byte 0xF1
  | .sysF2 => .byte 0xF2
  | .sysF3 => .byte 0xF3
  | .sysF4 => .byte 0xF4
  | .sysF5 => .byte 0xF5
  | .sysF6 => .byte 0xF6
  | .sysF7 => .byte 0xF7
  | .rtF8 => .byte 0xF8
  | .rtF9 => .byte 0xF9
  | .rtFA => .byte 0xFA
  | .rtFB => .byte 0xFB
  | .rtFC => .byte 0xFC
  | .rtFD => .byte 0xFD
  | .rtFE => .byte 0xFE
  | .rtFF => .byte 0xFF

/-- The bytes an instruction is written as, in stream order. -/
def encodeBytes (i : Instr) : List Byte := (encode i).bytes

/-- The unit of a table word: `nbits` is the row's width, and `w` numbers its bits as the table does, the first byte of
the stream most significant (R109). A row of one byte is a byte item; a longer row is a message unit. DEDUCED, log entry 4. -/
def tableUnit (nbits w : Nat) : InputUnit :=
  match nbits with
  | 8 => .byte (BitVec.ofNat 8 w)
  | 16 => .message [BitVec.ofNat 8 (w / 256), BitVec.ofNat 8 w]
  | 24 => .message [BitVec.ofNat 8 (w / 65536), BitVec.ofNat 8 (w / 256), BitVec.ofNat 8 w]
  | _ => .message []

/-- The instruction the decoder reads from a word of the opcode table. -/
def decodeTableWord (nbits w : Nat) : Option Instr :=
  match decode (tableUnit nbits w) with
  | .ok i => some i
  | .error _ => none

end Sys2Proof
end

