-- ==== Sys2Proof/Machine/Parser.lean ====
section
/-! DEFINITION. The ProtocolParser (R120 to R145): the pure transition function of R121, and what one byte does to the
machine. The meanings of the byte rows are written over the parts of it. -/

namespace Sys2Proof.Machine

/-- `P` after a channel-voice status byte (R124). -/
def statusParser (command channel : BitVec 4) : Parser where
  rs := statusByteOf command channel
  channel := channel
  command := command
  expected := expectedOf command
  received := 0
  data1 := 0
  data2 := 0

/-- `event_of(P)` (R135 to R139); it is asked only of the five supported commands (R134). -/
def eventOf (p : Parser) : Option Event :=
  match p.command with
  | 0x8#4 => some (.noteOff p.data1 p.channel)
  | 0x9#4 => some (.noteOn p.data1 p.data2 p.channel)
  | 0xB#4 => some (.controlChange p.data1 p.data2 p.channel)
  | 0xC#4 => some (.programChange p.data1 p.channel)
  | 0xE#4 => some (.pitchBend (bendValue p.data1 p.data2) p.channel)
  | _ => none

/-- The data byte goes to `data1` first, then to `data2` (R134). -/
def store (p : Parser) (d : BitVec 7) : Parser :=
  if p.received = 0 then { p with data1 := d } else { p with data2 := d }

/-- A data byte accumulated (R134): the message is complete when the count reaches `P.expected`. -/
def accumulate (p : Parser) (d : BitVec 7) : Parser × Option Event :=
  if p.received.toNat + 1 = p.expected.toNat then
    ({ store p d with received := 0 }, eventOf (store p d))
  else ({ store p d with received := p.received + 1 }, none)

/-- A data byte (R132 to R134). -/
def parseData (p : Parser) (d : BitVec 7) : Parser × Option Event :=
  if p.rs = 0 then (p, none)
  else if p.expected = 0 then (p, none)
  else accumulate p d

/-- `parse(P, b)`, in the order of R121. -/
def parse (p : Parser) (b : Byte) : Parser × Option Event :=
  if 0xF8 ≤ b.toNat then (p, none)
  else if 0xF0 ≤ b.toNat then (Parser.reset, none)
  else if isStatus b then (statusParser (highNibble b) (lowNibble b), none)
  else parseData p (dataField b)

/-- Emit the Event, if there is one (R120). -/
def deliver (e : Option Event) (s : State) : State :=
  match e with
  | some e => emit e s
  | none => s

/-- The block's step for an item `Byte(b)` (R120): the reference the meanings of the byte rows agree with. -/
def takeByte (b : Byte) (s : State) : State :=
  deliver (parse s.parser b).2 (s.setParser (parse s.parser b).1)

/-- What a channel-voice status byte does (R124): `P` only, no Event. -/
def statusByte (command channel : BitVec 4) (s : State) : State := s.setParser (statusParser command channel)

/-- What a data byte does (R132 to R139). -/
def dataByte (d : BitVec 7) (s : State) : State :=
  deliver (parseData s.parser d).2 (s.setParser (parseData s.parser d).1)

/-- What a system-common byte does: `P` is reset, no Event (R123). -/
def systemCommon (s : State) : State := s.setParser Parser.reset

/-- What a real-time byte does: nothing at all (R122). -/
def realTime (s : State) : State := s

end Sys2Proof.Machine
end

