-- ==== Sys2Proof/Machine/ByteRows.lean ====
section
/-! DEFINITION. The meanings of the byte rows of the table that carry a field: `DATA`, the seven `ST.` rows, `SYSCOM` and
`RT` (R122 to R134). -/

namespace Sys2Proof.Machine

open Host

/-- `DATA` (R132 to R134). -/
def execData (d : BitVec 7) (s : State) : Outcome State Fault Refusal := .next (dataByte d s)

/-- `ST.NOTEOFF` (R125). -/
def execStNoteOff (c : BitVec 4) (s : State) : Outcome State Fault Refusal := .next (statusByte 0x8 c s)

/-- `ST.NOTEON` (R126). -/
def execStNoteOn (c : BitVec 4) (s : State) : Outcome State Fault Refusal := .next (statusByte 0x9 c s)

/-- `ST.POLYP`, unsupported: it becomes the running status, with no data bytes expected (R127). -/
def execStPolyp (c : BitVec 4) (s : State) : Outcome State Fault Refusal := .next (statusByte 0xA c s)

/-- `ST.CC` (R128). -/
def execStCc (c : BitVec 4) (s : State) : Outcome State Fault Refusal := .next (statusByte 0xB c s)

/-- `ST.PC` (R129). -/
def execStPc (c : BitVec 4) (s : State) : Outcome State Fault Refusal := .next (statusByte 0xC c s)

/-- `ST.CHANP`, unsupported (R130). -/
def execStChanp (c : BitVec 4) (s : State) : Outcome State Fault Refusal := .next (statusByte 0xD c s)

/-- `ST.PB` (R131). -/
def execStPb (c : BitVec 4) (s : State) : Outcome State Fault Refusal := .next (statusByte 0xE c s)

/-- `SYSCOM`, the class: its low bits are ignored (R123). -/
def execSyscom (_ : BitVec 3) (s : State) : Outcome State Fault Refusal := .next (systemCommon s)

/-- `RT`, the class: its low bits are ignored (R122). -/
def execRt (_ : BitVec 3) (s : State) : Outcome State Fault Refusal := .next (realTime s)

end Sys2Proof.Machine
end

