-- ==== Sys2Proof/Machine/MessageRows.lean ====
section
/-! DEFINITION. The meanings of the message rows and the elided forms (R95, R99, R135 to R139): the bytes of the
message, one after another, each by its own rule. The Event is emitted by the last data byte (R95). -/

namespace Sys2Proof.Machine

open Host

/-- `NOTEOFF` (R125, R134, R135): the release velocity is accumulated and discarded. -/
def execNoteOff (c : BitVec 4) (n v : BitVec 7) (s : State) : Outcome State Fault Refusal :=
  .next (dataByte v (dataByte n (statusByte 0x8 c s)))

/-- `NOTEON` (R126, R134, R136). -/
def execNoteOn (c : BitVec 4) (n v : BitVec 7) (s : State) : Outcome State Fault Refusal :=
  .next (dataByte v (dataByte n (statusByte 0x9 c s)))

/-- `CC` (R128, R134, R137). -/
def execCc (c : BitVec 4) (k v : BitVec 7) (s : State) : Outcome State Fault Refusal :=
  .next (dataByte v (dataByte k (statusByte 0xB c s)))

/-- `PC` (R129, R134, R138). -/
def execPc (c : BitVec 4) (p : BitVec 7) (s : State) : Outcome State Fault Refusal :=
  .next (dataByte p (statusByte 0xC c s))

/-- `PB` (R131, R134, R139): the least significant seven bits come first. -/
def execPb (c : BitVec 4) (l m : BitVec 7) (s : State) : Outcome State Fault Refusal :=
  .next (dataByte m (dataByte l (statusByte 0xE c s)))

/-- `POLYP`, a one-byte message that emits nothing (R95, R127). -/
def execPolyp (c : BitVec 4) (s : State) : Outcome State Fault Refusal := .next (statusByte 0xA c s)

/-- `CHANP`, a one-byte message that emits nothing (R95, R130). -/
def execChanp (c : BitVec 4) (s : State) : Outcome State Fault Refusal := .next (statusByte 0xD c s)

/-- `RS2`: two data bytes (R99, R134). Where the row's need (`P.expected = 2`, `P.received = 0`) is not met, the bytes
still act by the rules of data bytes (R132 to R134). -/
def execRs2 (x y : BitVec 7) (s : State) : Outcome State Fault Refusal := .next (dataByte y (dataByte x s))

/-- `RS1`: one data byte (R99, R134). -/
def execRs1 (x : BitVec 7) (s : State) : Outcome State Fault Refusal := .next (dataByte x s)

end Sys2Proof.Machine
end

