-- ==== Sys2Proof/Machine/SystemRows.lean ====
section
/-! DEFINITION. The meanings of the sixteen named system bytes (R103): each is treated exactly as its class, `SYS.F0` to
`SYS.F7` as system-common (R123), `RT.F8` to `RT.FF` as real-time (R122). -/

namespace Sys2Proof.Machine

open Host

/-- `SYS.F0`, system-exclusive start (R103, R123). -/
def execSysF0 (s : State) : Outcome State Fault Refusal := .next (systemCommon s)

/-- `SYS.F1`, time code quarter frame (R103, R123). -/
def execSysF1 (s : State) : Outcome State Fault Refusal := .next (systemCommon s)

/-- `SYS.F2`, song position (R103, R123). -/
def execSysF2 (s : State) : Outcome State Fault Refusal := .next (systemCommon s)

/-- `SYS.F3`, song select (R103, R123). -/
def execSysF3 (s : State) : Outcome State Fault Refusal := .next (systemCommon s)

/-- `SYS.F4`, undefined in the MIDI protocol (R103, R123). -/
def execSysF4 (s : State) : Outcome State Fault Refusal := .next (systemCommon s)

/-- `SYS.F5`, undefined in the MIDI protocol (R103, R123). -/
def execSysF5 (s : State) : Outcome State Fault Refusal := .next (systemCommon s)

/-- `SYS.F6`, tune request (R103, R123). -/
def execSysF6 (s : State) : Outcome State Fault Refusal := .next (systemCommon s)

/-- `SYS.F7`, end of system-exclusive (R103, R123). -/
def execSysF7 (s : State) : Outcome State Fault Refusal := .next (systemCommon s)

/-- `RT.F8`, timing clock (R103, R122). -/
def execRtF8 (s : State) : Outcome State Fault Refusal := .next (realTime s)

/-- `RT.F9`, undefined in the MIDI protocol (R103, R122). -/
def execRtF9 (s : State) : Outcome State Fault Refusal := .next (realTime s)

/-- `RT.FA`, start (R103, R122). -/
def execRtFA (s : State) : Outcome State Fault Refusal := .next (realTime s)

/-- `RT.FB`, continue (R103, R122). -/
def execRtFB (s : State) : Outcome State Fault Refusal := .next (realTime s)

/-- `RT.FC`, stop (R103, R122). -/
def execRtFC (s : State) : Outcome State Fault Refusal := .next (realTime s)

/-- `RT.FD`, undefined in the MIDI protocol (R103, R122). -/
def execRtFD (s : State) : Outcome State Fault Refusal := .next (realTime s)

/-- `RT.FE`, active sensing (R103, R122). -/
def execRtFE (s : State) : Outcome State Fault Refusal := .next (realTime s)

/-- `RT.FF`, system reset: it resets nothing (R103, R122). -/
def execRtFF (s : State) : Outcome State Fault Refusal := .next (realTime s)

end Sys2Proof.Machine
end

