-- ==== Sys2Proof/Machine/Dispatch.lean ====
section
/-! DEFINITION. One arm per row of the opcode table, each a direct call of the row's meaning. -/

namespace Sys2Proof.Machine

open Host

def exec (i : Instr) (s : State) : Host.Outcome State Fault Refusal :=
  match i with
  | .data d => Sys2Proof.Machine.execData d s
  | .stNoteOff c => Sys2Proof.Machine.execStNoteOff c s
  | .stNoteOn c => Sys2Proof.Machine.execStNoteOn c s
  | .stPolyp c => Sys2Proof.Machine.execStPolyp c s
  | .stCc c => Sys2Proof.Machine.execStCc c s
  | .stPc c => Sys2Proof.Machine.execStPc c s
  | .stChanp c => Sys2Proof.Machine.execStChanp c s
  | .stPb c => Sys2Proof.Machine.execStPb c s
  | .syscom low => Sys2Proof.Machine.execSyscom low s
  | .rt low => Sys2Proof.Machine.execRt low s
  | .noteOff c n v => Sys2Proof.Machine.execNoteOff c n v s
  | .noteOn c n v => Sys2Proof.Machine.execNoteOn c n v s
  | .cc c k v => Sys2Proof.Machine.execCc c k v s
  | .pc c p => Sys2Proof.Machine.execPc c p s
  | .pb c l m => Sys2Proof.Machine.execPb c l m s
  | .polyp c => Sys2Proof.Machine.execPolyp c s
  | .chanp c => Sys2Proof.Machine.execChanp c s
  | .rs2 x y => Sys2Proof.Machine.execRs2 x y s
  | .rs1 x => Sys2Proof.Machine.execRs1 x s
  | .sysF0 => Sys2Proof.Machine.execSysF0 s
  | .sysF1 => Sys2Proof.Machine.execSysF1 s
  | .sysF2 => Sys2Proof.Machine.execSysF2 s
  | .sysF3 => Sys2Proof.Machine.execSysF3 s
  | .sysF4 => Sys2Proof.Machine.execSysF4 s
  | .sysF5 => Sys2Proof.Machine.execSysF5 s
  | .sysF6 => Sys2Proof.Machine.execSysF6 s
  | .sysF7 => Sys2Proof.Machine.execSysF7 s
  | .rtF8 => Sys2Proof.Machine.execRtF8 s
  | .rtF9 => Sys2Proof.Machine.execRtF9 s
  | .rtFA => Sys2Proof.Machine.execRtFA s
  | .rtFB => Sys2Proof.Machine.execRtFB s
  | .rtFC => Sys2Proof.Machine.execRtFC s
  | .rtFD => Sys2Proof.Machine.execRtFD s
  | .rtFE => Sys2Proof.Machine.execRtFE s
  | .rtFF => Sys2Proof.Machine.execRtFF s

end Sys2Proof.Machine
end

