-- ==== Sys2Proof/Machine/Fetch.lean ====
section
/-! DEFINITION. Taking input (R7, R187). A scheduling turn takes at most one protocol byte, or one host command, to
completion. An instruction of the table is one byte or a whole message, so running one instruction is one turn or as
many turns as its message has bytes. -/

namespace Sys2Proof.Machine

open Host

/-- Items of the byte stream, one byte each (R7). -/
def byteItems (bs : List Byte) : List Item := bs.map fun b => .input (.byte b)

/-- Take the first of the bytes `bs`, already removed from the input, as the instruction of its byte row; the others stay
pending, first to come first (R7, R120, R187). With no byte nothing is taken. -/
def takeFirstByte (bs : List Byte) (s : State) : Outcome State Fault Refusal :=
  match bs with
  | [] => .next s
  | b :: rest => exec (decodeByte b) (s.setInput (byteItems rest ++ s.input))

/-- What one turn takes of an item already removed from the input: a host command whole, of a unit of the byte stream
its first byte only (R7, R187). -/
def takeItem (it : Item) (s : State) : Outcome State Fault Refusal :=
  match it with
  | .cmd c => execCmd c s
  | .input u => takeFirstByte u.bytes s

/-- One scheduling turn: at most one pending protocol byte, or one host command, is taken to completion; with nothing
pending the turn changes nothing (R7, R187). -/
def turn (s : State) : Outcome State Fault Refusal :=
  match s.input with
  | [] => .next s
  | it :: rest => takeItem it (s.setInput rest)

/-- `k` scheduling turns, one after another, to the first that is refused (R187). -/
def turns : Nat → State → Outcome State Fault Refusal
  | 0, s => .next s
  | k + 1, s =>
    match turn s with
    | .next t => turns k t
    | .fault r => .fault r
    | .refused r => .refused r

/-- The whole message pending at the front of the input, as its instruction, with the items after it; none where the first
item is a byte, a command, or a run of bytes that is no message (R95, R99). -/
def pendingMessage (s : State) : Option (Instr × List Item) :=
  match s.input with
  | .input (.message bs) :: rest =>
    match decodeMessage bs with
    | .ok i => some (i, rest)
    | .error _ => none
  | _ => none

/-- Run one instruction or command. A whole message runs as its instruction, which does what as many scheduling turns as
it has bytes do, with nothing taken between them; anything else is one turn. DESIGN CHOICE, safe, log entry 2. -/
def runNext (s : State) : Outcome State Fault Refusal :=
  match pendingMessage s with
  | some (i, rest) => exec i (s.setInput rest)
  | none => turn s

/-- The item that holds a table word (log entries 2 and 4). -/
def tableItem (nbits w : Nat) : Item := .input (tableUnit nbits w)

end Sys2Proof.Machine
end

