-- ==== Sys2Proof/Machine/Step.lean ====
section
/-! DEFINITION. The step of the machine: one instruction or one host command. It is one scheduling turn (R187), or,
where a whole message is pending, the turns of its bytes. -/

namespace Sys2Proof.Machine

/-- One step: one instruction or one host command, to completion (R7, R120, R187; log entry 2). -/
def step (s : State) : Host.Outcome State Fault Refusal := runNext s

/-- `s` with the instruction of a table word as its next input item: the environment hands it over (R7; log entry 5). -/
def State.withFetchWord (s : State) (nbits w : Nat) : State := s.setInput (tableItem nbits w :: s.input)

end Sys2Proof.Machine
end

