-- ==== Sys2Proof/Machine/Construct.lean ====
section
/-! DEFINITION. Construction of the block (R303, steps 1 to 3): the configuration the surface yields, its validation, and
the block at reset. It stands outside the step: a configuration that breaks a constraint never becomes a machine. -/

namespace Sys2Proof.Machine

/-- The configuration surface: the two port values it yields, or the defaults when the file is missing or unreadable
(E1, R271). The defaults are P0's (log entry 1). -/
def loadConfig : Option (Byte × Byte) → Config
  | none => Config.p0
  | some ports => { Config.p0 with addrPort := ports.1, dataPort := ports.2 }

/-- Construct the block: every constraint of R9 to R12 is a reason to refuse (E2, E6: R272, R276), and the block starts
at its reset state (R300, R301). -/
def construct (cfg : Config) (env : Env) : Except (List ConfigError) State :=
  if cfg.valid then .ok (State.initial cfg env) else .error cfg.errors

end Sys2Proof.Machine
end

