-- ==== Sys2Proof/Safety.lean ====
section
/-! DEFINITION. What statements about the machine are said in: the shorthand of a bus trace, the shape every trace has
(R62, R63, R74, R76), what a present chip holds, the register writes an Event asks for, the two-state view of the parser
(R27, R144), and the invariant of the machine. Nothing here is read by the step. -/

namespace Sys2Proof

/-- The host commands that may leave the mixer register changed: those that run `init`, `reset` or `panic` (R183, R210,
R211, R234). Detection writes it too and restores it (R256). -/
def HostCmd.setsMixer : HostCmd → Bool
  | .select _ | .panic | .op .init | .op .reset | .op .panic => true
  | .reset | .detect | .reinit => false
  | .op .allOff | .op (.noteOn _ _ _ _) | .op (.noteOff _) | .op (.setVolume _ _) | .op (.setAttack _ _) => false
  | .op (.setDecay _ _) | .op (.setSustain _ _) | .op (.setRelease _ _) | .op (.setVibrato _) => false
  | .op (.setTremolo _) | .op (.setModulation _) | .op (.setPitchBend _) | .op (.setPreset _) => false

end Sys2Proof

namespace Sys2Proof.Machine

/-! ### Bus traces -/

/-- The trace of one `RegWrite(r, v)`: `W(ADDR_PORT, r) S W(DATA_PORT, v) S` (R62). -/
def writeTrace (cfg : Config) (w : Byte × Byte) : List BusAction :=
  [.write cfg.addrPort w.1, .settle, .write cfg.dataPort w.2, .settle]

/-- The trace of `RegWrite`s in order (R74). -/
def writesTrace (cfg : Config) (ws : List (Byte × Byte)) : List BusAction := ws.flatMap (writeTrace cfg)

/-- The trace of one `RegRead(r)` answered `v`: `W(ADDR_PORT, r) S R(DATA_PORT) = v` (R63). -/
def readTrace (cfg : Config) (r v : Byte) : List BusAction :=
  [.write cfg.addrPort r, .settle, .read cfg.dataPort v]

/-- A trace inside the interrupt-mask window: whole transactions only (R62, R63, R76). -/
inductive Guarded (cfg : Config) : List BusAction → Prop where
  | nil : Guarded cfg []
  | write (r v : Byte) (t : List BusAction) : Guarded cfg t → Guarded cfg (writeTrace cfg (r, v) ++ t)
  | read (r v : Byte) (t : List BusAction) : Guarded cfg t → Guarded cfg (readTrace cfg r v ++ t)

/-- The trace of any run of items: `RegWrite`s, and detection windows that open with `MASK` and close with `UNMASK`; a
read stands in such a window only (R63, R74, R76). -/
inductive Disciplined (cfg : Config) : List BusAction → Prop where
  | nil : Disciplined cfg []
  | write (r v : Byte) (t : List BusAction) : Disciplined cfg t → Disciplined cfg (writeTrace cfg (r, v) ++ t)
  | window (body t : List BusAction) :
    Guarded cfg body → Disciplined cfg t → Disciplined cfg (.mask :: (body ++ (.unmask :: t)))

/-! ### What the environment holds -/

/-- The environment after `RegWrite`s (R62, R70 to R72). -/
def Env.afterWrites (cfg : Config) (ws : List (Byte × Byte)) (e : Env) : Env :=
  ws.foldl (fun e w => (e.onWrite cfg cfg.addrPort w.1).onWrite cfg cfg.dataPort w.2) e

/-- `psg.reg[i]` of a present chip (R40, R71); none in the other environments. -/
def Env.reg (e : Env) (i : BitVec 4) : Option Byte :=
  match e with
  | .present p => some (p.read i)
  | .absent _ => none
  | .unconstrained _ _ => none

/-- The register a select write of `r` selects on a present chip (R71). -/
def select4 (r : Byte) : BitVec 4 := r.setWidth 4

/-- The chip is present. -/
def Env.isPresent : Env → Bool
  | .present _ => true
  | .absent _ => false
  | .unconstrained _ _ => false

/-! ### What an Event asks of the bus -/

/-- The voice a NoteOn takes: the one already sounding the note, else the one `allocate` returns (R171). -/
def noteOnVoice (note : BitVec 7) (channel : BitVec 4) (s : State) : Nat :=
  (findByNote note channel s).getD (allocIndex s)

/-- The `RegWrite`s of a release: `note_off` of the voice that sounds the note, if there is one (R173, R214). -/
def releaseWrites (note : BitVec 7) (channel : BitVec 4) (s : State) : List (Byte × Byte) :=
  match findByNote note channel s with
  | some v => [levelWrite s.cfg v 0]
  | none => []

/-- The `RegWrite`s of a controller at voice `v` (R215 to R222). -/
def controlWrites (a : CcAction) (value : Byte) (v : Nat) (s : State) : List (Byte × Byte) :=
  match a with
  | .volume => [levelWrite s.cfg v (levelKeepMode (s.shadow v) (vol4 value))]
  | .attack => envPeriodWrites s.cfg value ++ [levelWrite s.cfg v (levelToEnvelope (s.shadow v))]
  | .decay => [shapeWrite s.cfg (if 64 < value.toNat then s.cfg.shapeDecay else s.cfg.shapePlain)]
  | .sustain => [levelWrite s.cfg v (levelPlain (vol4 value))]
  | .release => envPeriodWrites s.cfg value
  | .none | .vibrato | .tremolo | .modulation => []

/-- The `RegWrite`s of a bend: two for each active voice, voices ascending (R230). -/
def bendWrites (value : Int) (s : State) : List (Byte × Byte) :=
  (List.range s.cfg.n).flatMap fun v =>
    if (s.voice v).active then periodWrites s.cfg v (bentPeriod s.cfg (noteToPeriod s.cfg (s.voice v).note) value) else []

/-- The `RegWrite`s the PSG driver performs for an Event (R171 to R179). -/
def psgWrites (e : Event) (s : State) : List (Byte × Byte) :=
  match e with
  | .noteOn note velocity channel =>
    if velocity = 0 then releaseWrites note channel s
    else
      periodWrites s.cfg (noteOnVoice note channel s) (noteToPeriod s.cfg note) ++
        [levelWrite s.cfg (noteOnVoice note channel s) (levelPlain (vol4 (wide velocity)))]
  | .noteOff note channel => releaseWrites note channel s
  | .controlChange controller value _ =>
    match firstActive s with
    | some v => controlWrites (ccAction s.cfg controller) (wide value) v s
    | none => []
  | .programChange program _ => ((s.cfg.presetShape[program.toNat]?).map (shapeWrite s.cfg)).toList
  | .pitchBend value _ => bendWrites value s

/-- The `RegWrite`s an Event causes: none when no backend is active (R170). -/
def eventWrites (e : Event) (s : State) : List (Byte × Byte) := if s.active = some .psg then psgWrites e s else []

/-- The `RegWrite`s a data byte causes: those of the Event it completes, if it completes one (R120, R134). -/
def dataWrites (d : BitVec 7) (s : State) : List (Byte × Byte) :=
  match (parseData s.parser d).2 with
  | some e => eventWrites e s
  | none => []

/-- The `RegWrite`s an instruction performs: those of the Event each of its data bytes completes (R120, R170); none for
a row that completes no Event. -/
def instrWrites (i : Instr) (s : State) : List (Byte × Byte) :=
  match i with
  | .data d => dataWrites d s
  | .rs1 x => dataWrites x s
  | .rs2 x y => dataWrites x s ++ dataWrites y (dataByte x s)
  | .noteOff c n _ => eventWrites (.noteOff n c) s
  | .noteOn c n v => eventWrites (.noteOn n v c) s
  | .cc c k v => eventWrites (.controlChange k v c) s
  | .pc c p => eventWrites (.programChange p c) s
  | .pb c l m => eventWrites (.pitchBend (bendValue l m) c) s
  | .stNoteOff _ | .stNoteOn _ | .stPolyp _ | .stCc _ | .stPc _ | .stChanp _ | .stPb _ | .polyp _ | .chanp _ => []
  | .syscom _ | .sysF0 | .sysF1 | .sysF2 | .sysF3 | .sysF4 | .sysF5 | .sysF6 | .sysF7 => []
  | .rt _ | .rtF8 | .rtF9 | .rtFA | .rtFB | .rtFC | .rtFD | .rtFE | .rtFF => []

/-! ### Detection -/

/-- The nine tests of a detection run, each a register, the value written, and the mask of the comparison (R253 to
R255). -/
def detectTests (cfg : Config) : List (Byte × Byte × Byte) :=
  [(cfg.mixer, 0x00, cfg.mixerRwMask), (cfg.mixer, 0x55, cfg.mixerRwMask), (cfg.mixer, 0xAA, cfg.mixerRwMask),
    (cfg.mixer, 0xFF, cfg.mixerRwMask), (cfg.level[0], 0x00, cfg.levelRwMask), (cfg.level[0], 0x55, cfg.levelRwMask),
    (cfg.level[0], 0xAA, cfg.levelRwMask), (cfg.level[0], 0xFF, cfg.levelRwMask),
    (cfg.toneLo[0], cfg.detectSentinel, 0xFF)]

/-- The byte read back agrees with the value written, under the test's mask (R253 to R255). -/
def testMatches (q : (Byte × Byte × Byte) × Byte) : Bool := q.2 &&& q.1.2.2 == q.1.2.1 &&& q.1.2.2

/-! ### The parser -/

/-- The two-state view of the parser (R27). -/
inductive View where
  | awaitingStatus
  | accumulating (expected received : Nat)
deriving DecidableEq, Repr

/-- The view read off `P` (R27). -/
def Parser.view (p : Parser) : View :=
  if p.rs = 0 then .awaitingStatus else .accumulating p.expected.toNat p.received.toNat

/-- `parse` run over a byte sequence: the last `P` and the Events in order (R142). -/
def parseAll (p : Parser) : List Byte → Parser × List Event
  | [] => (p, [])
  | b :: bs => ((parseAll (parse p b).1 bs).1, (parse p b).2.toList ++ (parseAll (parse p b).1 bs).2)

/-- The channel an Event carries (R100). -/
def eventChannel : Event → BitVec 4
  | .noteOn _ _ c => c
  | .noteOff _ c => c
  | .controlChange _ _ c => c
  | .programChange _ c => c
  | .pitchBend _ c => c

/-- The command nibble an Event is the kind of (R93). -/
def eventCommand : Event → BitVec 4
  | .noteOff _ _ => 0x8
  | .noteOn _ _ _ => 0x9
  | .controlChange _ _ _ => 0xB
  | .programChange _ _ => 0xC
  | .pitchBend _ _ => 0xE

/-- A real-time byte, `0xF8` to `0xFF` (R91). -/
def isRealTime (b : Byte) : Bool := decide (0xF8 ≤ b.toNat)

/-- The parser invariant (R26). -/
structure Parser.Inv (p : Parser) : Prop where
  idle : p.rs = 0 → p = Parser.reset
  status : p.rs ≠ 0 → 0x80 ≤ p.rs.toNat ∧ p.rs.toNat ≤ 0xEF
  channel : p.rs ≠ 0 → p.channel = lowNibble p.rs
  command : p.rs ≠ 0 → p.command = highNibble p.rs
  expected : p.rs ≠ 0 → p.expected = expectedOf p.command
  received : p.rs ≠ 0 → p.received.toNat < max p.expected.toNat 1

/-! ### The machine -/

/-- At most one active voice matches a `(note, channel)` pair (R29). -/
def NotesUnique (s : State) : Prop :=
  ∀ i < s.voices.length, ∀ j < s.voices.length,
    (s.voice i).active = true → (s.voice j).active = true →
      (s.voice i).note = (s.voice j).note → (s.voice i).channel = (s.voice j).channel → i = j

/-- The stamps of active voices are distinct, and none is above the counter (R29, R151, R153). -/
def StampsFresh (s : State) : Prop :=
  (∀ i < s.voices.length, (s.voice i).allocatedAt ≤ s.counter) ∧
    ∀ i < s.voices.length, ∀ j < s.voices.length,
      (s.voice i).active = true → (s.voice j).active = true → (s.voice i).allocatedAt = (s.voice j).allocatedAt → i = j

/-- A present chip holds in each register only bits its mask stores (R71, R259). -/
def ChipMasked (cfg : Config) (e : Env) : Prop :=
  ∀ i : BitVec 4, ∀ x, e.reg i = some x → x &&& wmask cfg i = x

/-- The invariant of the machine between two items. -/
structure State.Inv (s : State) : Prop where
  /-- The configuration meets every constraint (R9 to R12). -/
  config : s.cfg.valid = true
  /-- R26. -/
  parser : s.parser.Inv
  /-- The voice table has `N` entries (R28). -/
  size : s.voices.length = s.cfg.n
  /-- R29. -/
  unique : NotesUnique s
  /-- R29, R153. -/
  stamps : StampsFresh s
  /-- Interrupts are masked inside a detection run only (R33, R279). -/
  unmasked : s.irqMask = false
  /-- R71. -/
  chip : ChipMasked s.cfg s.env

/-- The level shadows equal the present chip's level registers (R43). -/
def ShadowsAgree (s : State) : Prop :=
  ∀ v < 3, s.env.reg (select4 (levelReg s.cfg v)) = some ((s.shadow v).setWidth 8)

/-- The chip stores all five bits of a level register, as the family's does (R41). -/
def LevelsStored (cfg : Config) : Prop := ∀ v < 3, wmask cfg (select4 (levelReg cfg v)) &&& 0x1F = 0x1F

end Sys2Proof.Machine
end

