-- ==== Sys2Proof/Certificates/Slice0/Obligations.lean ====
section
/-! DEFINITION. The statements for the provers. Each docstring names the rule of spec/ it formalises. Statements hold for
every configuration, environment and state unless a premise says otherwise. -/

open Sys2Proof Sys2Proof.Machine Host

/-! ### Encoding -/

/-- R91, R95, R99, R103: reading what is written gives the instruction back, every field at every value. The split of
the rows between byte items and message units is the model's (log entry 2). -/
def Obligations.DecodeReadsWhatEncodeWrites : Prop :=
  ∀ i : Instr, i.wellFormed = true → decode (encode i) = .ok i

/-- R91, R95, R99, R103: every unit the decoder accepts is the unit its instruction is written as. That a unit has one
row only (byte 0xA5 is ST.POLYP, message [0xA5] is POLYP) is the model's choice: the split of the rows between byte items
and message units (log entry 2). -/
def Obligations.EncodeWritesWhatDecodeReads : Prop :=
  ∀ u i, decode u = .ok i → encode i = u

/-- R90, R91, R93, R103: the row of each byte value, by its range. Which nibble is which kind is the spec's own
assignment (D4). The table gives many byte values two rows; that a byte item reads as DATA, ST.POLYP, ST.CHANP, SYS.F0 to
SYS.F7 and RT.F8 to RT.FF, and not as RS1, POLYP, CHANP, SYSCOM and RT, is the model's choice (log entry 2). -/
def Obligations.EveryByteHasItsRow : Prop :=
  ∀ b : Byte,
    (b.toNat ≤ 0x7F → decodeByte b = .data (b.extractLsb' 0 7)) ∧
    (0x80 ≤ b.toNat → b.toNat ≤ 0x8F → decodeByte b = .stNoteOff (b.extractLsb' 0 4)) ∧
    (0x90 ≤ b.toNat → b.toNat ≤ 0x9F → decodeByte b = .stNoteOn (b.extractLsb' 0 4)) ∧
    (0xA0 ≤ b.toNat → b.toNat ≤ 0xAF → decodeByte b = .stPolyp (b.extractLsb' 0 4)) ∧
    (0xB0 ≤ b.toNat → b.toNat ≤ 0xBF → decodeByte b = .stCc (b.extractLsb' 0 4)) ∧
    (0xC0 ≤ b.toNat → b.toNat ≤ 0xCF → decodeByte b = .stPc (b.extractLsb' 0 4)) ∧
    (0xD0 ≤ b.toNat → b.toNat ≤ 0xDF → decodeByte b = .stChanp (b.extractLsb' 0 4)) ∧
    (0xE0 ≤ b.toNat → b.toNat ≤ 0xEF → decodeByte b = .stPb (b.extractLsb' 0 4)) ∧
    (0xF0 ≤ b.toNat →
      [Instr.sysF0, .sysF1, .sysF2, .sysF3, .sysF4, .sysF5, .sysF6, .sysF7, .rtF8, .rtF9, .rtFA, .rtFB, .rtFC, .rtFD,
        .rtFE, .rtFF][b.toNat - 0xF0]? = some (decodeByte b))

/-- R109: words of the table, written out from their patterns, read as their rows. That the first byte of the stream is
the most significant of a word is the model's reading (log entry 4), and that an 8-bit word is a byte item, so that 0x3C
reads as DATA and not RS1 and 0xF0 as SYS.F0 and not SYSCOM, is its choice (log entries 2 and 4). -/
def Obligations.TableWordsDecode : Prop :=
  decodeTableWord 8 0b00111100 = some (.data 0x3C) ∧
  decodeTableWord 8 0b10010101 = some (.stNoteOn 5) ∧
  decodeTableWord 8 0b11110000 = some .sysF0 ∧
  decodeTableWord 8 0b11111111 = some .rtFF ∧
  decodeTableWord 24 0b100000100100000001111111 = some (.noteOff 2 64 127) ∧
  decodeTableWord 24 0b100100000011110001000000 = some (.noteOn 0 60 64) ∧
  decodeTableWord 24 0b101100010000011101010000 = some (.cc 1 7 80) ∧
  decodeTableWord 24 0b111000110111111100000001 = some (.pb 3 127 1) ∧
  decodeTableWord 16 0b1100000100001001 = some (.pc 1 9) ∧
  decodeTableWord 16 0b0011110000000000 = some (.rs2 60 0)

/-! ### The step -/

/-- R7, R187: a scheduling turn takes at most one pending protocol byte: of a unit of the stream its first byte, as the
instruction of its byte row, to completion, with the unit's other bytes left pending as they were; or one command. A turn
on a unit of no bytes removes it, and a turn with none pending changes nothing. A step runs one instruction or command:
where a unit that holds an instruction is first, it is exec of that instruction on the state with the item removed, and
every step but that of a whole message is one turn. That a step runs a whole message is the model's choice (log entry 2),
and so is the list of pending items with its empty turn (log entry 5). -/
def Obligations.StepTakesOneItem : Prop :=
  (∀ (s : State) (u : InputUnit) (b : Byte) (bs : List Byte) (rest : List Item),
    s.input = .input u :: rest → u.bytes = b :: bs →
      turn s = exec (decodeByte b) { s with input := byteItems bs ++ rest }) ∧
  (∀ (s : State) (u : InputUnit) (rest : List Item),
    s.input = .input u :: rest → u.bytes = [] → turn s = .next { s with input := rest }) ∧
  (∀ (s : State) (c : HostCmd) (rest : List Item),
    s.input = .cmd c :: rest → turn s = execCmd c { s with input := rest }) ∧
  (∀ s : State, s.input = [] → turn s = .next s) ∧
  (∀ (s : State) (u : InputUnit) (i : Instr) (rest : List Item),
    s.input = .input u :: rest → decode u = .ok i → step s = exec i { s with input := rest }) ∧
  (∀ s : State, (∀ bs i rest, s.input = .input (.message bs) :: rest → decodeMessage bs ≠ .ok i) → step s = turn s)

/-- R7, R95, R187, log entry 2: a step that runs a whole message does what as many scheduling turns as it has bytes do,
each taking one byte, and what its bytes do as byte items, taken one a step; a turn on a run of bytes, whether it is a
message or not, is the step on its first byte with the others pending as byte items. -/
def Obligations.MessageStepEqualsItsByteSteps : Prop :=
  (∀ (s : State) (bs : List Byte) (rest : List Item) (i : Instr), decodeMessage bs = .ok i →
    step { s with input := .input (.message bs) :: rest } =
      turns bs.length { s with input := .input (.message bs) :: rest } ∧
    step { s with input := .input (.message bs) :: rest } =
      Host.Core.run Sys2Proof.core bs.length { s with input := byteItems bs ++ rest }) ∧
  (∀ (s : State) (b : Byte) (bs : List Byte) (rest : List Item),
    turn { s with input := .input (.message (b :: bs)) :: rest } = step { s with input := byteItems (b :: bs) ++ rest }) ∧
  ∀ (s : State) (b : Byte) (bs : List Byte) (rest : List Item) (e : DecodeError), decodeMessage (b :: bs) = .error e →
    step { s with input := .input (.message (b :: bs)) :: rest } = step { s with input := byteItems (b :: bs) ++ rest }

/-- R120: the block's step for `Byte(b)`: parse, write `P`, and emit the Event if there is one. -/
def Obligations.ByteStepParsesThenEmits : Prop :=
  ∀ (s : State) (b : Byte) (rest : List Item), s.input = .input (.byte b) :: rest →
    step s =
      .next (match (parse s.parser b).2 with
        | some e =>
          dispatch e { s with input := rest, parser := (parse s.parser b).1, events := s.events ++ [e] }
        | none => { s with input := rest, parser := (parse s.parser b).1 })

/-- R121 to R124, R132, R133: which rule `parse` applies, and what the rule gives. What a system-common byte resets,
what a data byte under a status that expects none does, and that a status byte zeroes the data are the spec's own
readings (D3, D5, D7). -/
def Obligations.ParseFollowsTheByteClasses : Prop :=
  ∀ (p : Parser) (b : Byte),
    (0xF8 ≤ b.toNat → parse p b = (p, none)) ∧
    (0xF0 ≤ b.toNat → b.toNat < 0xF8 → parse p b = (⟨0, 0, 0, 0, 0, 0, 0⟩, none)) ∧
    (0x80 ≤ b.toNat → b.toNat < 0xF0 →
      parse p b =
        (⟨b, b.extractLsb' 0 4, b.extractLsb' 4 4, expectedOf (b.extractLsb' 4 4), 0, 0, 0⟩, none)) ∧
    (b.toNat < 0x80 → p.rs = 0 → parse p b = (p, none)) ∧
    (b.toNat < 0x80 → p.rs ≠ 0 → p.expected = 0 → parse p b = (p, none)) ∧
    (b.toNat < 0x80 → p.rs ≠ 0 → p.expected ≠ 0 → parse p b = accumulate p (b.extractLsb' 0 7))

/-! ### The byte rows -/

/-- R124 to R131: a channel-voice status byte writes all of `P` and nothing else, whatever was in progress. The
nibbles and the zeroed data are the spec's own (D4, D7). -/
def Obligations.StatusBytesSetTheParser : Prop :=
  ∀ (c : BitVec 4) (s : State),
    exec (.stNoteOff c) s = .next { s with parser := ⟨0x8#4 ++ c, c, 0x8, 2, 0, 0, 0⟩ } ∧
    exec (.stNoteOn c) s = .next { s with parser := ⟨0x9#4 ++ c, c, 0x9, 2, 0, 0, 0⟩ } ∧
    exec (.stPolyp c) s = .next { s with parser := ⟨0xA#4 ++ c, c, 0xA, 0, 0, 0, 0⟩ } ∧
    exec (.stCc c) s = .next { s with parser := ⟨0xB#4 ++ c, c, 0xB, 2, 0, 0, 0⟩ } ∧
    exec (.stPc c) s = .next { s with parser := ⟨0xC#4 ++ c, c, 0xC, 1, 0, 0, 0⟩ } ∧
    exec (.stChanp c) s = .next { s with parser := ⟨0xD#4 ++ c, c, 0xD, 0, 0, 0, 0⟩ } ∧
    exec (.stPb c) s = .next { s with parser := ⟨0xE#4 ++ c, c, 0xE, 2, 0, 0, 0⟩ } ∧
    exec (.polyp c) s = .next { s with parser := ⟨0xA#4 ++ c, c, 0xA, 0, 0, 0, 0⟩ } ∧
    exec (.chanp c) s = .next { s with parser := ⟨0xD#4 ++ c, c, 0xD, 0, 0, 0, 0⟩ }

/-- R123: a system-common byte resets `P` and does nothing else; all eight values behave alike. That every field is
reset is the spec's own reading (D3). -/
def Obligations.SystemCommonBytesResetTheParser : Prop :=
  ∀ (low : BitVec 3) (s : State),
    ∀ i ∈ [Instr.syscom low, .sysF0, .sysF1, .sysF2, .sysF3, .sysF4, .sysF5, .sysF6, .sysF7],
      exec i s = .next { s with parser := ⟨0, 0, 0, 0, 0, 0, 0⟩ }

/-- R122: a real-time byte changes nothing; all eight values behave alike, 0xFF included. -/
def Obligations.RealTimeBytesChangeNothing : Prop :=
  ∀ (low : BitVec 3) (s : State),
    ∀ i ∈ [Instr.rt low, .rtF8, .rtF9, .rtFA, .rtFB, .rtFC, .rtFD, .rtFE, .rtFF], exec i s = .next s

/-- R132, R133: a data byte with no running status, or under one that expects no data, changes nothing; neither do the
elided forms made of such bytes. The second case is the spec's own reading (D5). That RS1 and RS2 run here, where the need
R99 gives them is not met, is the model's choice (log entry 2). -/
def Obligations.UnusableDataBytesChangeNothing : Prop :=
  ∀ (d x y : BitVec 7) (s : State), s.parser.rs = 0 ∨ s.parser.expected = 0 →
    exec (.data d) s = .next s ∧ exec (.rs1 d) s = .next s ∧ exec (.rs2 x y) s = .next s

/-- R134: the first of two data bytes is held in `data1`; nothing else happens. That RS1 runs here, where two data
bytes are expected and the need R99 gives it is not met, is the model's choice (log entry 2). -/
def Obligations.FirstDataByteIsHeld : Prop :=
  ∀ (d : BitVec 7) (s : State), s.parser.rs ≠ 0 → s.parser.expected = 2 → s.parser.received = 0 →
    exec (.data d) s = .next { s with parser := { s.parser with data1 := d, received := 1 } } ∧
    exec (.rs1 d) s = .next { s with parser := { s.parser with data1 := d, received := 1 } }

/-- R135 to R138: the data byte that completes a NoteOff, NoteOn, ControlChange or ProgramChange emits the Event of the
running status, which is dispatched; `received` goes back to 0 and the running status is kept. That RS1 runs in the first
three cases, where two data bytes are expected and the need R99 gives it is not met, is the model's choice (log entry
2). -/
def Obligations.LastDataByteEmitsItsEvent : Prop :=
  ∀ (d : BitVec 7) (s : State), s.parser.rs ≠ 0 →
    ∀ i ∈ [Instr.data d, .rs1 d],
      (s.parser.command = 0x8 → s.parser.expected = 2 → s.parser.received = 1 →
        exec i s = .next (dispatch (.noteOff s.parser.data1 s.parser.channel)
          { s with
            parser := { s.parser with data2 := d, received := 0 }
            events := s.events ++ [.noteOff s.parser.data1 s.parser.channel] })) ∧
      (s.parser.command = 0x9 → s.parser.expected = 2 → s.parser.received = 1 →
        exec i s = .next (dispatch (.noteOn s.parser.data1 d s.parser.channel)
          { s with
            parser := { s.parser with data2 := d, received := 0 }
            events := s.events ++ [.noteOn s.parser.data1 d s.parser.channel] })) ∧
      (s.parser.command = 0xB → s.parser.expected = 2 → s.parser.received = 1 →
        exec i s = .next (dispatch (.controlChange s.parser.data1 d s.parser.channel)
          { s with
            parser := { s.parser with data2 := d, received := 0 }
            events := s.events ++ [.controlChange s.parser.data1 d s.parser.channel] })) ∧
      (s.parser.command = 0xC → s.parser.expected = 1 → s.parser.received = 0 →
        exec i s = .next (dispatch (.programChange d s.parser.channel)
          { s with
            parser := { s.parser with data1 := d, received := 0 }
            events := s.events ++ [.programChange d s.parser.channel] }))

/-- R99, R134 to R139: an elided form does in every state what its data bytes do, one after another; where the form's
need is met, the two data bytes of RS2 emit one Event of the kind and channel of the running status. That the form runs
where its need is not met is the model's reading (log entry 2). How a bend is assembled is the spec's own (D6). -/
def Obligations.ElidedMessagesEmitTheirEvent : Prop :=
  (∀ (x : BitVec 7) (s : State), exec (.rs1 x) s = exec (.data x) s) ∧
  (∀ (x y : BitVec 7) (s t : State), exec (.data x) s = .next t → exec (.rs2 x y) s = exec (.data y) t) ∧
  ∀ (x y : BitVec 7) (s : State), s.parser.rs ≠ 0 → s.parser.expected = 2 → s.parser.received = 0 →
    (s.parser.command = 0x8 →
      exec (.rs2 x y) s = .next (dispatch (.noteOff x s.parser.channel)
        { s with
          parser := { s.parser with data1 := x, data2 := y }
          events := s.events ++ [.noteOff x s.parser.channel] })) ∧
    (s.parser.command = 0x9 →
      exec (.rs2 x y) s = .next (dispatch (.noteOn x y s.parser.channel)
        { s with
          parser := { s.parser with data1 := x, data2 := y }
          events := s.events ++ [.noteOn x y s.parser.channel] })) ∧
    (s.parser.command = 0xB →
      exec (.rs2 x y) s = .next (dispatch (.controlChange x y s.parser.channel)
        { s with
          parser := { s.parser with data1 := x, data2 := y }
          events := s.events ++ [.controlChange x y s.parser.channel] })) ∧
    (s.parser.command = 0xE →
      exec (.rs2 x y) s = .next (dispatch (.pitchBend (((y ++ x).toNat : Int) - 8192) s.parser.channel)
        { s with
          parser := { s.parser with data1 := x, data2 := y }
          events := s.events ++ [.pitchBend (((y ++ x).toNat : Int) - 8192) s.parser.channel] }))

/-! ### The message rows -/

/-- R95, R135 to R139: a whole message emits its one Event and dispatches it, whatever was in progress before, and
leaves its status byte as the running status. The nibbles, the zeroed data and the assembly of a bend are the spec's
own (D4, D6, D7). -/
def Obligations.MessageRowsEmitTheirEvent : Prop :=
  ∀ (s : State) (c : BitVec 4) (x y : BitVec 7),
    exec (.noteOff c x y) s = .next (dispatch (.noteOff x c)
      { s with parser := ⟨0x8#4 ++ c, c, 0x8, 2, 0, x, y⟩, events := s.events ++ [.noteOff x c] }) ∧
    exec (.noteOn c x y) s = .next (dispatch (.noteOn x y c)
      { s with parser := ⟨0x9#4 ++ c, c, 0x9, 2, 0, x, y⟩, events := s.events ++ [.noteOn x y c] }) ∧
    exec (.cc c x y) s = .next (dispatch (.controlChange x y c)
      { s with parser := ⟨0xB#4 ++ c, c, 0xB, 2, 0, x, y⟩, events := s.events ++ [.controlChange x y c] }) ∧
    exec (.pc c x) s = .next (dispatch (.programChange x c)
      { s with parser := ⟨0xC#4 ++ c, c, 0xC, 1, 0, x, 0⟩, events := s.events ++ [.programChange x c] }) ∧
    exec (.pb c x y) s = .next (dispatch (.pitchBend (((y ++ x).toNat : Int) - 8192) c)
      { s with
        parser := ⟨0xE#4 ++ c, c, 0xE, 2, 0, x, y⟩
        events := s.events ++ [.pitchBend (((y ++ x).toNat : Int) - 8192) c] })

/-- R170: with no active backend an Event is recorded and dropped: the parser has advanced, and nothing else changes.
Dropping it is the spec's own choice (D11). -/
def Obligations.EventsWithoutBackendAreDropped : Prop :=
  ∀ (s : State), s.active = none →
    (∀ e, dispatch e s = s) ∧
    ∀ (c : BitVec 4) (x y : BitVec 7),
      exec (.noteOff c x y) s = .next
        { s with parser := ⟨0x8#4 ++ c, c, 0x8, 2, 0, x, y⟩, events := s.events ++ [.noteOff x c] } ∧
      exec (.noteOn c x y) s = .next
        { s with parser := ⟨0x9#4 ++ c, c, 0x9, 2, 0, x, y⟩, events := s.events ++ [.noteOn x y c] } ∧
      exec (.cc c x y) s = .next
        { s with parser := ⟨0xB#4 ++ c, c, 0xB, 2, 0, x, y⟩, events := s.events ++ [.controlChange x y c] } ∧
      exec (.pc c x) s = .next
        { s with parser := ⟨0xC#4 ++ c, c, 0xC, 1, 0, x, 0⟩, events := s.events ++ [.programChange x c] } ∧
      exec (.pb c x y) s = .next
        { s with
          parser := ⟨0xE#4 ++ c, c, 0xE, 2, 0, x, y⟩
          events := s.events ++ [.pitchBend (((y ++ x).toNat : Int) - 8192) c] }

/-- R171, R213, R151, R152: NOTEON with a velocity above 0 takes the voice that sounds the note, with one stamp, or
the voice `allocate` returns, with two; it writes the period low byte first and then the level with the mode bit 0,
stores the note as given, and changes no other voice, shadow or register of the block. The look-up before the
allocation, both stamps and the order of the writes are the spec's own (D9, D10, D21). -/
def Obligations.NoteOnSoundsOneVoice : Prop :=
  ∀ (s : State) (c : BitVec 4) (n v : BitVec 7) (w k : Nat),
    s.active = some .psg → s.voices ≠ [] → v ≠ 0 →
    (findByNote n c s = some w ∧ k = 1 ∨ findByNote n c s = none ∧ w = allocIndex s ∧ k = 2) →
      exec (.noteOn c n v) s = .next
        { s with
          parser := ⟨0x9#4 ++ c, c, 0x9, 2, 0, n, v⟩
          events := s.events ++ [.noteOn n v c]
          voices := s.voices.set w ⟨true, n, v, c, s.counter + k⟩
          counter := s.counter + k
          lvl := s.lvl.setIfInBounds w (0#1 ++ vol4 (v.setWidth 8))
          trace := s.trace ++
            [.write s.cfg.addrPort (toneLoReg s.cfg w), .settle,
              .write s.cfg.dataPort (BitVec.ofNat 8 (noteToPeriod s.cfg n)), .settle,
              .write s.cfg.addrPort (toneHiReg s.cfg w), .settle,
              .write s.cfg.dataPort (((BitVec.ofNat 12 (noteToPeriod s.cfg n)).extractLsb' 8 4).setWidth 8), .settle,
              .write s.cfg.addrPort (levelReg s.cfg w), .settle,
              .write s.cfg.dataPort ((vol4 (v.setWidth 8)).setWidth 8), .settle]
          env := s.env.afterWrites s.cfg
            [(toneLoReg s.cfg w, BitVec.ofNat 8 (noteToPeriod s.cfg n)),
              (toneHiReg s.cfg w, ((BitVec.ofNat 12 (noteToPeriod s.cfg n)).extractLsb' 8 4).setWidth 8),
              (levelReg s.cfg w, (vol4 (v.setWidth 8)).setWidth 8)] }

/-- R172, R173, R214: NOTEOFF, and NOTEON with velocity 0, silence the voice that sounds the note: its whole level
register is written 0 and it is inactive, its other fields kept; when none sounds it, nothing is written. -/
def Obligations.ReleaseSilencesItsVoice : Prop :=
  ∀ (s : State) (c : BitVec 4) (n v : BitVec 7), s.active = some .psg →
    (∀ w, findByNote n c s = some w →
      exec (.noteOff c n v) s = .next
        { s with
          parser := ⟨0x8#4 ++ c, c, 0x8, 2, 0, n, v⟩
          events := s.events ++ [.noteOff n c]
          voices := s.voices.set w { s.voice w with active := false }
          lvl := s.lvl.setIfInBounds w 0
          trace := s.trace ++ [.write s.cfg.addrPort (levelReg s.cfg w), .settle, .write s.cfg.dataPort 0, .settle]
          env := s.env.afterWrites s.cfg [(levelReg s.cfg w, 0)] } ∧
      exec (.noteOn c n 0) s = .next
        { s with
          parser := ⟨0x9#4 ++ c, c, 0x9, 2, 0, n, 0⟩
          events := s.events ++ [.noteOn n 0 c]
          voices := s.voices.set w { s.voice w with active := false }
          lvl := s.lvl.setIfInBounds w 0
          trace := s.trace ++ [.write s.cfg.addrPort (levelReg s.cfg w), .settle, .write s.cfg.dataPort 0, .settle]
          env := s.env.afterWrites s.cfg [(levelReg s.cfg w, 0)] }) ∧
    (findByNote n c s = none →
      exec (.noteOff c n v) s = .next
        { s with parser := ⟨0x8#4 ++ c, c, 0x8, 2, 0, n, v⟩, events := s.events ++ [.noteOff n c] } ∧
      exec (.noteOn c n 0) s = .next
        { s with parser := ⟨0x9#4 ++ c, c, 0x9, 2, 0, n, 0⟩, events := s.events ++ [.noteOn n 0 c] })

/-- R174 to R176, R215 to R222: a controller acts on the first active voice alone, by the operation `cc_map` selects;
a global effect, an unmapped controller, or a per-voice one with no active voice does nothing. The map from
controllers, the case of no active voice, and what attack keeps are the spec's own (D12, D13, D23). -/
def Obligations.ControlChangeActsOnFirstActiveVoice : Prop :=
  ∀ (s t : State) (c : BitVec 4) (k v : BitVec 7), s.active = some .psg →
    t = { s with parser := ⟨0xB#4 ++ c, c, 0xB, 2, 0, k, v⟩, events := s.events ++ [.controlChange k v c] } →
    (ccAction s.cfg k ∈ [CcAction.none, .vibrato, .tremolo, .modulation] ∨ firstActive s = none →
      exec (.cc c k v) s = .next t) ∧
    ∀ w, firstActive s = some w →
      (ccAction s.cfg k = .volume →
        exec (.cc c k v) s = .next
          { t with
            lvl := s.lvl.setIfInBounds w ((s.shadow w &&& 0x10) ||| (0#1 ++ vol4 (v.setWidth 8)))
            trace := s.trace ++ writesTrace s.cfg
              [(levelReg s.cfg w, ((s.shadow w &&& 0x10) ||| (0#1 ++ vol4 (v.setWidth 8))).setWidth 8)]
            env := s.env.afterWrites s.cfg
              [(levelReg s.cfg w, ((s.shadow w &&& 0x10) ||| (0#1 ++ vol4 (v.setWidth 8))).setWidth 8)] }) ∧
      (ccAction s.cfg k = .attack →
        exec (.cc c k v) s = .next
          { t with
            lvl := s.lvl.setIfInBounds w (0x10 ||| (s.shadow w &&& 0x0F))
            trace := s.trace ++ writesTrace s.cfg
              [(s.cfg.envLo, (envPair s.cfg (scale8 (v.setWidth 8))).1),
                (s.cfg.envHi, (envPair s.cfg (scale8 (v.setWidth 8))).2),
                (levelReg s.cfg w, (0x10 ||| (s.shadow w &&& 0x0F)).setWidth 8)]
            env := s.env.afterWrites s.cfg
              [(s.cfg.envLo, (envPair s.cfg (scale8 (v.setWidth 8))).1),
                (s.cfg.envHi, (envPair s.cfg (scale8 (v.setWidth 8))).2),
                (levelReg s.cfg w, (0x10 ||| (s.shadow w &&& 0x0F)).setWidth 8)] }) ∧
      (ccAction s.cfg k = .decay →
        exec (.cc c k v) s = .next
          { t with
            trace := s.trace ++ writesTrace s.cfg
              [(s.cfg.envShape, (if 64 < v.toNat then s.cfg.shapeDecay else s.cfg.shapePlain).setWidth 8)]
            env := s.env.afterWrites s.cfg
              [(s.cfg.envShape, (if 64 < v.toNat then s.cfg.shapeDecay else s.cfg.shapePlain).setWidth 8)] }) ∧
      (ccAction s.cfg k = .sustain →
        exec (.cc c k v) s = .next
          { t with
            lvl := s.lvl.setIfInBounds w (0#1 ++ vol4 (v.setWidth 8))
            trace := s.trace ++ writesTrace s.cfg [(levelReg s.cfg w, (vol4 (v.setWidth 8)).setWidth 8)]
            env := s.env.afterWrites s.cfg [(levelReg s.cfg w, (vol4 (v.setWidth 8)).setWidth 8)] }) ∧
      (ccAction s.cfg k = .release →
        exec (.cc c k v) s = .next
          { t with
            trace := s.trace ++ writesTrace s.cfg
              [(s.cfg.envLo, (envPair s.cfg (scale8 (v.setWidth 8))).1),
                (s.cfg.envHi, (envPair s.cfg (scale8 (v.setWidth 8))).2)]
            env := s.env.afterWrites s.cfg
              [(s.cfg.envLo, (envPair s.cfg (scale8 (v.setWidth 8))).1),
                (s.cfg.envHi, (envPair s.cfg (scale8 (v.setWidth 8))).2)] })

/-- R178, R233: a program of the preset table writes its shape; a program beyond the table writes nothing. That
nothing else changes is the spec's own reading (D25). -/
def Obligations.ProgramChangeSetsTheShape : Prop :=
  ∀ (s : State) (c : BitVec 4) (p : BitVec 7), s.active = some .psg →
    (∀ shape, s.cfg.presetShape[p.toNat]? = some shape →
      exec (.pc c p) s = .next
        { s with
          parser := ⟨0xC#4 ++ c, c, 0xC, 1, 0, p, 0⟩
          events := s.events ++ [.programChange p c]
          trace := s.trace ++ [.write s.cfg.addrPort s.cfg.envShape, .settle,
            .write s.cfg.dataPort (shape.setWidth 8), .settle]
          env := s.env.afterWrites s.cfg [(s.cfg.envShape, shape.setWidth 8)] }) ∧
    (s.cfg.presetShape.length ≤ p.toNat →
      exec (.pc c p) s = .next
        { s with parser := ⟨0xC#4 ++ c, c, 0xC, 1, 0, p, 0⟩, events := s.events ++ [.programChange p c] })

/-- R179, R230: PB rewrites the period of every active voice, ascending, low byte first, as `clamp(base - tdiv(base *
value, BEND_K), 1, 4095)`; no voice, shadow or counter changes, and the bend is not stored. The assembly of the value
and the division are the spec's own (D6, D26). -/
def Obligations.PitchBendRewritesActivePeriods : Prop :=
  ∀ (s : State) (c : BitVec 4) (l m : BitVec 7) (value : Int) (ws : List (Byte × Byte)), s.active = some .psg →
    value = ((m ++ l).toNat : Int) - 8192 →
    ws = ((List.range s.cfg.n).filter fun w => (s.voice w).active).flatMap (fun w =>
      let base : Int := noteToPeriod s.cfg (s.voice w).note
      let period : Nat := (max 1 (min 4095 (base - (base * value).tdiv s.cfg.bendK))).toNat
      [(toneLoReg s.cfg w, BitVec.ofNat 8 period),
        (toneHiReg s.cfg w, ((BitVec.ofNat 12 period).extractLsb' 8 4).setWidth 8)]) →
      exec (.pb c l m) s = .next
        { s with
          parser := ⟨0xE#4 ++ c, c, 0xE, 2, 0, l, m⟩
          events := s.events ++ [.pitchBend value c]
          trace := s.trace ++ writesTrace s.cfg ws
          env := s.env.afterWrites s.cfg ws }

/-! ### Frames -/

/-- R120, R74, R270: every instruction completes in every state. It changes no configuration, backend, detected set,
interrupt mask, pending item or command result. `P` becomes what `parse` makes of its bytes and the Events are those
`parse` emits, after the ones there were; the register writes are those of the Events (`instrWrites`, which is empty for
a row that completes none), after what was on the trace. The voice table, the counter and the shadows are all else that
may change, and do not where no Event is emitted. That RS1 and RS2 run in every state is the model's choice (log entry
2). -/
def Obligations.EveryInstructionCompletesInItsFrame : Prop :=
  ∀ (i : Instr) (s : State), ∃ t,
    exec i s = .next t ∧ t.cfg = s.cfg ∧ t.active = s.active ∧ t.detected = s.detected ∧ t.irqMask = s.irqMask ∧
      t.input = s.input ∧ t.results = s.results ∧
      t.parser = (parseAll s.parser (encodeBytes i)).1 ∧
      t.events = s.events ++ (parseAll s.parser (encodeBytes i)).2 ∧
      t.trace = s.trace ++ writesTrace s.cfg (instrWrites i s) ∧
      t.env = s.env.afterWrites s.cfg (instrWrites i s) ∧
      t.voices.length = s.voices.length ∧ s.counter ≤ t.counter ∧
      ((parseAll s.parser (encodeBytes i)).2 = [] → t.voices = s.voices ∧ t.counter = s.counter ∧ t.lvl = s.lvl)

/-- R62, R71, R170 to R179: which PSG registers an instruction stores to: those of the writes of the Event it completes
(`eventWrites`), computed as the driver computes them; every other register of the chip reads as before. A row that
completes no Event stores to none. The present chip, which keeps the other registers, is the spec's own model (D33). That
RS1 and RS2 run where the need R99 gives them is not met is the model's choice (log entry 2). -/
def Obligations.InstructionsStoreOnlyTheirRegisters : Prop :=
  ∀ (s t : State), s.cfg.addrPort ≠ s.cfg.dataPort →
    (∀ (c : BitVec 4) (low : BitVec 3),
      ∀ i ∈ [Instr.stNoteOff c, .stNoteOn c, .stPolyp c, .stCc c, .stPc c, .stChanp c, .stPb c, .polyp c, .chanp c,
          .syscom low, .rt low, .sysF0, .sysF1, .sysF2, .sysF3, .sysF4, .sysF5, .sysF6, .sysF7, .rtF8, .rtF9, .rtFA,
          .rtFB, .rtFC, .rtFD, .rtFE, .rtFF],
        exec i s = .next t → ∀ r, t.env.reg r = s.env.reg r) ∧
    (∀ (c : BitVec 4) (x y : BitVec 7),
      ∀ m ∈ [(Instr.noteOff c x y, Event.noteOff x c), (.noteOn c x y, .noteOn x y c),
          (.cc c x y, .controlChange x y c), (.pc c x, .programChange x c),
          (.pb c x y, .pitchBend (((y ++ x).toNat : Int) - 8192) c)],
        exec m.1 s = .next t →
          ∀ r, (∀ w ∈ eventWrites m.2 s, select4 w.1 ≠ r) → t.env.reg r = s.env.reg r) ∧
    (∀ d : BitVec 7, ∀ i ∈ [Instr.data d, .rs1 d],
      exec i s = .next t → ∀ r, (∀ w ∈ dataWrites d s, select4 w.1 ≠ r) → t.env.reg r = s.env.reg r) ∧
    (∀ (x y : BitVec 7) (u : State), exec (.data x) s = .next u → exec (.rs2 x y) s = .next t →
      ∀ r, (∀ w ∈ dataWrites x s ++ dataWrites y u, select4 w.1 ≠ r) → t.env.reg r = s.env.reg r)

/-- R200, R206, R207, R71: what NOTEON stores on a present chip: the period and the level of its voice, each under the
register's write mask. The present chip is the spec's own model (D33). -/
def Obligations.NoteOnStoresPeriodAndLevel : Prop :=
  ∀ (s t : State) (p : Psg) (c : BitVec 4) (n v : BitVec 7),
    s.Inv → s.cfg.chipFits = true → s.env = .present p → s.active = some .psg → v ≠ 0 →
    exec (.noteOn c n v) s = .next t →
      noteOnVoice n c s < s.cfg.n ∧
      t.env.reg (select4 (toneLoReg s.cfg (noteOnVoice n c s))) =
        some (BitVec.ofNat 8 (noteToPeriod s.cfg n) &&& wmask s.cfg (select4 (toneLoReg s.cfg (noteOnVoice n c s)))) ∧
      t.env.reg (select4 (toneHiReg s.cfg (noteOnVoice n c s))) =
        some (BitVec.ofNat 8 (noteToPeriod s.cfg n / 256) &&&
          wmask s.cfg (select4 (toneHiReg s.cfg (noteOnVoice n c s)))) ∧
      t.env.reg (select4 (levelReg s.cfg (noteOnVoice n c s))) =
        some ((vol4 (v.setWidth 8)).setWidth 8 &&& wmask s.cfg (select4 (levelReg s.cfg (noteOnVoice n c s))))

/-! ### The bus -/

/-- R62: the trace of a `RegWrite`, entry by entry; it writes no state of the block. -/
def Obligations.RegWriteIsTwoPhase : Prop :=
  ∀ (r v : Byte) (s : State), ∃ e,
    regWrite r v s =
      { s with
        trace := s.trace ++ [.write s.cfg.addrPort r, .settle, .write s.cfg.dataPort v, .settle]
        env := e }

/-- R63, R71, R72: the trace of a `RegRead`, entry by entry, which writes no state of the block. After a `RegWrite` a
present chip reads back the masked value there and every other register as before, and its latch holds the index; an
absent chip goes on answering its constant. That no settle follows a read is the spec's own reading (D17), and the
present chip its own model (D33). -/
def Obligations.RegisterReadsBackWhatWasWritten : Prop :=
  ∀ (s : State),
    (∀ r, ∃ e, (regRead r s).2 =
      { s with
        trace := s.trace ++ [.write s.cfg.addrPort r, .settle, .read s.cfg.dataPort (regRead r s).1]
        env := e }) ∧
    (∀ (p : Psg) (r v q : Byte), s.cfg.addrPort ≠ s.cfg.dataPort → s.env = .present p →
      (regRead r (regWrite r v s)).1 = v &&& wmask s.cfg (r.setWidth 4) ∧
      (q.setWidth 4 ≠ r.setWidth 4 → (regRead q (regWrite r v s)).1 = (regRead q s).1) ∧
      ∃ p', (regWrite r v s).env = .present p' ∧ p'.addr = r.setWidth 4) ∧
    (∀ x r v q, s.env = .absent x → (regRead q (regWrite r v s)).1 = x ∧ (regWrite r v s).env = .absent x)

/-- R62, R63, R74, R76: whatever a step does, it appends whole transactions to the trace, with reads inside an
interrupt-mask window only. The trace of a read is the spec's own reading (D17). That a step which takes `Reset` or
`Reinit` keeps the trace put out before it is the model's reading (log entry 8). -/
def Obligations.EveryStepKeepsBusDiscipline : Prop :=
  ∀ s t : State, step s = .next t → ∃ added, t.trace = s.trace ++ added ∧ Disciplined s.cfg added

/-- R2, R63: only the `Detect` command reads the bus: any other step appends register writes alone. That a step which takes
`Reset` or `Reinit` keeps the trace put out before it, and the environment, is the model's reading (log entry 8). -/
def Obligations.OnlyDetectionReadsTheBus : Prop :=
  ∀ s t : State, step s = .next t → (∀ rest, s.input ≠ .cmd .detect :: rest) →
    ∃ ws, t.trace = s.trace ++ writesTrace s.cfg ws ∧ t.env = s.env.afterWrites s.cfg ws

/-! ### The parser as a whole -/

/-- R142: byte sequences that differ in real-time bytes only leave the same `P` and emit the same Events in the same
order. The spec derives it from R122. -/
def Obligations.RealTimeBytesAreTransparent : Prop :=
  ∀ (p : Parser) (bs bs' : List Byte),
    (bs.filter fun b => !isRealTime b) = (bs'.filter fun b => !isRealTime b) → parseAll p bs = parseAll p bs'

/-- R26: the parser invariant holds after reset and every byte keeps it. The spec derives it from R122 to R134. -/
def Obligations.ParserInvariantIsKept : Prop :=
  (Parser.reset).Inv ∧ ∀ (p : Parser) (b : Byte), p.Inv → (parse p b).1.Inv

/-- R144: the moves of the two-state view; only a data byte that completes a message emits. The spec derives it from
R122 to R134. -/
def Obligations.ParserViewMoves : Prop :=
  ∀ (p : Parser) (b : Byte), p.Inv →
    (0xF8 ≤ b.toNat → (parse p b).1.view = p.view ∧ (parse p b).2 = none) ∧
    (0xF0 ≤ b.toNat → b.toNat ≤ 0xF7 → (parse p b).1.view = .awaitingStatus ∧ (parse p b).2 = none) ∧
    (0x80 ≤ b.toNat → b.toNat ≤ 0xEF →
      (parse p b).1.view = .accumulating (expectedOf (highNibble b)).toNat 0 ∧ (parse p b).2 = none) ∧
    (b.toNat ≤ 0x7F → p.view = .awaitingStatus → (parse p b).1.view = .awaitingStatus ∧ (parse p b).2 = none) ∧
    (∀ r, b.toNat ≤ 0x7F → p.view = .accumulating 0 r → (parse p b).1.view = p.view ∧ (parse p b).2 = none) ∧
    (∀ e r, b.toNat ≤ 0x7F → p.view = .accumulating e r → r + 1 < e →
      (parse p b).1.view = .accumulating e (r + 1) ∧ (parse p b).2 = none) ∧
    (∀ e r, b.toNat ≤ 0x7F → p.view = .accumulating e r → r + 1 = e →
      (parse p b).1.view = .accumulating e 0 ∧ (parse p b).2.isSome = true)

/-- R140: running status persists: any number of further data bytes emits one Event of the same kind and channel for
each `P.expected` of them, and changes nothing of the running status; only a status or system-common byte changes
`P.rs`. The spec derives it from R134. -/
def Obligations.RunningStatusPersists : Prop :=
  (∀ (p : Parser) (ds : List (BitVec 7)), p.Inv → p.rs ≠ 0 → p.expected ≠ 0 → p.received = 0 →
    (parseAll p (ds.map dataByteOf)).1.rs = p.rs ∧
    (parseAll p (ds.map dataByteOf)).1.channel = p.channel ∧
    (parseAll p (ds.map dataByteOf)).1.command = p.command ∧
    (parseAll p (ds.map dataByteOf)).1.expected = p.expected ∧
    (parseAll p (ds.map dataByteOf)).1.received.toNat = ds.length % p.expected.toNat ∧
    (parseAll p (ds.map dataByteOf)).2.length = ds.length / p.expected.toNat ∧
    ∀ e ∈ (parseAll p (ds.map dataByteOf)).2, eventCommand e = p.command ∧ eventChannel e = p.channel) ∧
  ∀ (p : Parser) (b : Byte), (parse p b).1.rs ≠ p.rs → 0x80 ≤ b.toNat ∧ b.toNat ≤ 0xF7

/-- R141, R143: a status or system-common byte emits nothing and drops the data byte held; after a system-common byte
nothing depends on what came before. The spec derives it from R123 and R124. -/
def Obligations.CutMessagesAreLost : Prop :=
  (∀ (p : Parser) (b : Byte), 0x80 ≤ b.toNat → b.toNat ≤ 0xF7 →
    (parse p b).2 = none ∧ (parse p b).1.received = 0 ∧ (parse p b).1.data1 = 0 ∧ (parse p b).1.data2 = 0) ∧
  ∀ (p q : Parser) (b : Byte) (bs : List Byte), 0xF0 ≤ b.toNat → b.toNat ≤ 0xF7 →
    parseAll p (b :: bs) = parseAll q (b :: bs)

/-- R98, R139: the data byte that completes a PitchBend emits its Event, whose value is `((data2 << 7) | data1) - 8192`;
the range of that value is exactly `-8192..8191`. How the value is formed is the spec's own reading (D6). That RS1 runs
here, where two data bytes are expected and the need R99 gives it is not met, is the model's choice (log entry 2). -/
def Obligations.PitchBendValueIsOffsetBinary : Prop :=
  (∀ d1 d2 : BitVec 7,
    bendValue d1 d2 = ((d2.toNat <<< 7 ||| d1.toNat : Nat) : Int) - 8192 ∧
    -8192 ≤ bendValue d1 d2 ∧ bendValue d1 d2 ≤ 8191) ∧
  (∀ v : Int, -8192 ≤ v → v ≤ 8191 → ∃ d1 d2, bendValue d1 d2 = v) ∧
  ∀ (d : BitVec 7) (s : State), s.parser.rs ≠ 0 → s.parser.command = 0xE → s.parser.expected = 2 →
    s.parser.received = 1 →
      ∀ i ∈ [Instr.data d, .rs1 d],
        exec i s = .next (dispatch (.pitchBend (bendValue s.parser.data1 d) s.parser.channel)
          { s with
            parser := { s.parser with data2 := d, received := 0 }
            events := s.events ++ [.pitchBend (bendValue s.parser.data1 d) s.parser.channel] })

/-! ### The allocator -/

/-- R152: `allocate` takes the first inactive slot; with none inactive, the voice with the smallest stamp, the lowest
index of a tie. It writes that slot and one stamp and nothing else. That `allocate` itself fills the slot is the
spec's own reading (D9). -/
def Obligations.AllocateTakesFirstFreeElseOldest : Prop :=
  ∀ (s : State) (note velocity : BitVec 7) (channel : BitVec 4) (v : Nat), s.voices ≠ [] →
    (allocate note velocity channel s).1 = v →
      v < s.voices.length ∧
      (∀ w < s.voices.length, (s.voice w).active = false → (s.voice v).active = false ∧ v ≤ w) ∧
      ((∀ w < s.voices.length, (s.voice w).active = true) →
        (∀ w < s.voices.length, (s.voice v).allocatedAt ≤ (s.voice w).allocatedAt) ∧
        ∀ w < v, (s.voice v).allocatedAt < (s.voice w).allocatedAt) ∧
      (allocate note velocity channel s).2 =
        { s with
          voices := s.voices.set v ⟨true, note, velocity, channel, s.counter + 1⟩
          counter := s.counter + 1 }

/-- R157: on three inactive voices three allocations return 0, 1, 2 with the next three stamps and a fourth returns 0;
and after `note_off(v)` the voice is no longer found by its note and channel. The exact indices and stamps the spec
derives from R152. -/
def Obligations.ThreeAllocationsThenSteal : Prop :=
  (∀ (s s1 s2 s3 s4 : State) (a b c d : BitVec 7 × BitVec 7 × BitVec 4) (v1 v2 v3 v4 : Nat),
    s.voices.length = 3 → (∀ x ∈ s.voices, x.active = false) →
    allocate a.1 a.2.1 a.2.2 s = (v1, s1) → allocate b.1 b.2.1 b.2.2 s1 = (v2, s2) →
    allocate c.1 c.2.1 c.2.2 s2 = (v3, s3) → allocate d.1 d.2.1 d.2.2 s3 = (v4, s4) →
      v1 = 0 ∧ v2 = 1 ∧ v3 = 2 ∧ v4 = 0 ∧
      (s3.voices.map fun x => x.allocatedAt) = [s.counter + 1, s.counter + 2, s.counter + 3]) ∧
  ∀ (s : State) (v : Nat), NotesUnique s → v < s.voices.length → (s.voice v).active = true →
    findByNote (s.voice v).note (s.voice v).channel s = some v ∧
    findByNote (s.voice v).note (s.voice v).channel (noteOff v s) = none

/-- R155, R156: the scans answer the lowest index that matches, and none exactly when nothing matches. -/
def Obligations.ScansFindTheLowestMatch : Prop :=
  ∀ (s : State) (note : BitVec 7) (channel : BitVec 4),
    (∀ v, findByNote note channel s = some v ↔
      v < s.voices.length ∧
        ((s.voice v).active = true ∧ (s.voice v).note = note ∧ (s.voice v).channel = channel) ∧
        ∀ w < v, ¬((s.voice w).active = true ∧ (s.voice w).note = note ∧ (s.voice w).channel = channel)) ∧
    (∀ v, firstActive s = some v ↔
      v < s.voices.length ∧ (s.voice v).active = true ∧ ∀ w < v, (s.voice w).active = false)

/-! ### The driver's arithmetic -/

/-- R204, R205: `vol4` and `scale8`, and the laws any choice of `vol4` must meet. The formulas are the spec's own
(D19, D20). -/
def Obligations.VolumeAndScaleLaws : Prop :=
  (∀ x : Byte, (vol4 x).toNat = min 15 (x.toNat / 8)) ∧
  (∀ x : Byte, (scale8 x).toNat = min 255 (2 * x.toNat)) ∧
  vol4 0 = 0 ∧ vol4 127 = 15 ∧ vol4 200 = 15 ∧
  ∀ x y : Byte, x.toNat ≤ y.toNat → (vol4 x).toNat ≤ (vol4 y).toNat

/-- R32, R204, R213, R215, R216, R218: what each operation makes of the two parts of a level value, as a value and as the
operation on the machine, for every 8-bit argument. `set_volume` keeps the mode and takes the volume, clamped to 15, so
that `set_volume(v, 200)` leaves the mode and gives 15; `set_attack` sets the mode and keeps the volume; `set_sustain` and
`note_on` clear the mode and take the volume. `set_volume` and `set_sustain` write the level register once and change
nothing else of the block but the shadow. The rescale and that attack keeps the volume are the spec's own readings (D19,
D23). -/
def Obligations.LevelValuesKeepTheirParts : Prop :=
  (∀ (x : BitVec 5) (v : BitVec 4),
    envelopeMode (levelKeepMode x v) = envelopeMode x ∧ levelVolume (levelKeepMode x v) = v ∧
    envelopeMode (levelToEnvelope x) = true ∧ levelVolume (levelToEnvelope x) = levelVolume x ∧
    envelopeMode (levelPlain v) = false ∧ levelVolume (levelPlain v) = v) ∧
  ∀ (s : State) (v : Nat), v < 3 →
    (∀ value : Byte,
      envelopeMode ((setVolume v value s).shadow v) = envelopeMode (s.shadow v) ∧
      (levelVolume ((setVolume v value s).shadow v)).toNat = min 15 (value.toNat / 8) ∧
      setVolume v value s =
        { s with
          lvl := s.lvl.setIfInBounds v ((setVolume v value s).shadow v)
          trace := s.trace ++ writesTrace s.cfg [(levelReg s.cfg v, ((setVolume v value s).shadow v).setWidth 8)]
          env := s.env.afterWrites s.cfg [(levelReg s.cfg v, ((setVolume v value s).shadow v).setWidth 8)] }) ∧
    levelVolume ((setVolume v 200 s).shadow v) = 15 ∧
    (∀ value : Byte,
      envelopeMode ((setAttack v value s).shadow v) = true ∧
      levelVolume ((setAttack v value s).shadow v) = levelVolume (s.shadow v)) ∧
    (∀ value : Byte,
      envelopeMode ((setSustain v value s).shadow v) = false ∧
      (levelVolume ((setSustain v value s).shadow v)).toNat = min 15 (value.toNat / 8) ∧
      setSustain v value s =
        { s with
          lvl := s.lvl.setIfInBounds v ((setSustain v value s).shadow v)
          trace := s.trace ++ writesTrace s.cfg [(levelReg s.cfg v, ((setSustain v value s).shadow v).setWidth 8)]
          env := s.env.afterWrites s.cfg [(levelReg s.cfg v, ((setSustain v value s).shadow v).setWidth 8)] }) ∧
    ∀ (note velocity : BitVec 7) (channel : BitVec 4),
      envelopeMode ((noteOn v note velocity channel s).shadow v) = false ∧
      (levelVolume ((noteOn v note velocity channel s).shadow v)).toNat = min 15 (velocity.toNat / 8)

/-- R201, R202: with a valid configuration a higher note never has a larger period, over all notes 0 to 127, and every
period is 1 to 4095. Beyond the supported notes the spec derives it from R201. -/
def Obligations.PeriodsFallAsNotesRise : Prop :=
  ∀ (cfg : Config), cfg.valid = true → ∀ n1 n2 : BitVec 7, n1.toNat ≤ n2.toNat →
    noteToPeriod cfg n2 ≤ noteToPeriod cfg n1 ∧ 1 ≤ noteToPeriod cfg n1 ∧ noteToPeriod cfg n1 ≤ 4095

/-- R230, R232: the bent period is within 1 to 4095 for every bend, equals the base at bend 0 and wherever `|base *
value| < BEND_K`, and the lower clamp is never reached; a positive bend lowers the period, a negative one raises it.
The truncation is the spec's own choice (D26). -/
def Obligations.BendStaysInRange : Prop :=
  ∀ (cfg : Config) (base : Nat) (value : Int), cfg.valid = true → 1 ≤ base → base ≤ 4095 → -8192 ≤ value → value ≤ 8191 →
    (1 ≤ bentPeriod cfg base value ∧ bentPeriod cfg base value ≤ 4095) ∧
    bentPeriod cfg base 0 = base ∧
    (((base : Int) * value).natAbs < cfg.bendK → bentPeriod cfg base value = base) ∧
    1 ≤ (base : Int) - ((base : Int) * value).tdiv cfg.bendK ∧
    (0 ≤ value → bentPeriod cfg base value ≤ base) ∧ (value ≤ 0 → base ≤ bentPeriod cfg base value)

/-! ### Host commands, the registry, the driver's life cycle -/

/-- R185, R29: a host `Op` outside its domain is refused; inside it, it runs on the active backend, and does nothing
with none; the one further refusal is a `note_on` that R29 gives no meaning (log entry 7). The host commands are the
spec's own (D32). That an Op with no active backend does nothing is the model's reading of R185, beside which a remark of
R304 can be read otherwise (log entry 9). -/
def Obligations.HostOpsCompleteOnTheirDomain : Prop :=
  ∀ (f : BackendOp) (s : State),
    (f.wellFormed s.cfg.n = false → ∃ r, execCmd (.op f) s = .refused r) ∧
    (f.wellFormed s.cfg.n = true → s.active = none →
      execCmd (.op f) s = .next { s with results := s.results ++ [none] }) ∧
    (f.wellFormed s.cfg.n = true → s.active = some .psg →
      (∀ voice note velocity channel, f = .noteOn voice note velocity channel →
        soundsElsewhere voice (note.setWidth 7) (channel.setWidth 4) s = false) →
      execCmd (.op f) s = .next { runOp f s with results := s.results ++ [none] }) ∧
    (∀ voice note velocity channel, f = .noteOn voice note velocity channel → f.wellFormed s.cfg.n = true →
      s.active = some .psg → soundsElsewhere voice (note.setWidth 7) (channel.setWidth 4) s = true →
      execCmd (.op f) s = .refused .duplicateNote)

/-- R212, R234: `all_off` leaves every voice inactive, its other fields kept, and every shadow of a voice 0, with one
level write of 0 a voice, ascending; `Panic` does the same and then writes the mixer off. With no active backend
`Panic` does nothing (R185). What `all_off` does is the spec's own definition (D28), and so are the host commands
(D32). -/
def Obligations.AllOffAndPanicSilenceEveryVoice : Prop :=
  (∀ s : State, s.active = none → execCmd .panic s = .next { s with results := s.results ++ [none] }) ∧
  ∀ (s : State), s.active = some .psg → s.voices.length = s.cfg.n →
    ∃ lv : Vector (BitVec 5) 3,
      (∀ v < 3, (lv[v]?).getD 0 = if v < s.cfg.n then 0 else s.shadow v) ∧
      execCmd (.op .allOff) s = .next
        { s with
          voices := s.voices.map fun x => { x with active := false }
          lvl := lv
          trace := s.trace ++ writesTrace s.cfg ((List.range s.cfg.n).map fun v => (levelReg s.cfg v, 0))
          env := s.env.afterWrites s.cfg ((List.range s.cfg.n).map fun v => (levelReg s.cfg v, 0))
          results := s.results ++ [none] } ∧
      execCmd .panic s = .next
        { s with
          voices := s.voices.map fun x => { x with active := false }
          lvl := lv
          trace := s.trace ++ writesTrace s.cfg
            (((List.range s.cfg.n).map fun v => (levelReg s.cfg v, 0)) ++ [(s.cfg.mixer, s.cfg.mixerOff)])
          env := s.env.afterWrites s.cfg
            (((List.range s.cfg.n).map fun v => (levelReg s.cfg v, 0)) ++ [(s.cfg.mixer, s.cfg.mixerOff)])
          results := s.results ++ [none] }

/-- R313, R234: after `Panic` the mixer register of a present chip holds `MIXER_OFF`; every step that takes no `Select`,
no `Panic` and no `Op` of `init`, `reset` or `panic` leaves the mixer register as it is; so no number of stream bytes
changes it. The spec derives it from R213 and R234; the present chip is its own model (D33). That `Reset` and `Reinit`
keep the chip as it is is the model's reading (log entry 8). -/
def Obligations.MixerStaysOffAfterPanic : Prop :=
  (∀ (s t : State) (p : Psg), s.Inv → s.env = .present p → s.active = some .psg → execCmd .panic s = .next t →
    t.env.reg (select4 s.cfg.mixer) = some (s.cfg.mixerOff &&& wmask s.cfg (select4 s.cfg.mixer))) ∧
  (∀ (s t : State) (p : Psg) (x : Byte), s.Inv → s.cfg.chipFits = true → s.env = .present p →
    (∀ c rest, s.input = .cmd c :: rest → c.setsMixer = false) →
    s.env.reg (select4 s.cfg.mixer) = some x → step s = .next t → t.env.reg (select4 s.cfg.mixer) = some x) ∧
  ∀ (s t u : State) (p : Psg) (bs : List Byte),
    s.Inv → s.cfg.chipFits = true → s.env = .present p → s.active = some .psg →
    execCmd .panic s = .next t →
    Host.Core.run Sys2Proof.core bs.length { t with input := byteItems bs } = .next u →
      u.env.reg (select4 s.cfg.mixer) = some (s.cfg.mixerOff &&& wmask s.cfg (select4 s.cfg.mixer))

/-- R210, R302: `init` clears the voices and the shadows and leaves each of the fourteen registers of a present chip
at the value it writes, whatever the chip held; the counter is kept. What `init` writes is the spec's own definition
(D28), and the present chip its own model (D33). -/
def Obligations.InitDeterminesTheChip : Prop :=
  ∀ (s : State) (p : Psg), s.cfg.valid = true → s.cfg.chipFits = true → s.env = .present p →
    (∀ w ∈ [(s.cfg.toneLo[0], (0 : Byte)), (s.cfg.toneHi[0], 0), (s.cfg.toneLo[1], 0), (s.cfg.toneHi[1], 0),
        (s.cfg.toneLo[2], 0), (s.cfg.toneHi[2], 0), (s.cfg.noise, 0), (s.cfg.mixer, s.cfg.mixerInit),
        (s.cfg.level[0], 0), (s.cfg.level[1], 0), (s.cfg.level[2], 0), (s.cfg.envLo, 0), (s.cfg.envHi, 0),
        (s.cfg.envShape, 0)],
      (driverInit s).env.reg (select4 w.1) = some (w.2 &&& wmask s.cfg (select4 w.1))) ∧
    (driverInit s).voices = List.replicate s.cfg.n ⟨false, 0, 0, 0, 0⟩ ∧
    (∀ v, (driverInit s).shadow v = 0) ∧
    (driverInit s).counter = s.counter ∧ (driverInit s).parser = s.parser

/-- R312, R216, R219: attack writes the envelope pair of its value, release the same two registers with the pair of its
own, so the most recent writer wins, in either order; attack puts the channel into envelope mode and release leaves it
there. That the volume is kept is the spec's own reading (D23), and the present chip its own model (D33). -/
def Obligations.AttackAndReleaseShareTheEnvelope : Prop :=
  ∀ (s : State) (p : Psg) (v w : Nat) (a r : Byte),
    s.cfg.valid = true → s.cfg.chipFits = true → s.env = .present p → v < 3 →
      (∀ t ∈ [setAttack v a s, setAttack v a (setRelease w r s)],
        t.env.reg (select4 s.cfg.envLo) =
          some ((envPair s.cfg (scale8 a)).1 &&& wmask s.cfg (select4 s.cfg.envLo)) ∧
        t.env.reg (select4 s.cfg.envHi) =
          some ((envPair s.cfg (scale8 a)).2 &&& wmask s.cfg (select4 s.cfg.envHi))) ∧
      (∀ t ∈ [setRelease w r s, setRelease w r (setAttack v a s)],
        t.env.reg (select4 s.cfg.envLo) =
          some ((envPair s.cfg (scale8 r)).1 &&& wmask s.cfg (select4 s.cfg.envLo)) ∧
        t.env.reg (select4 s.cfg.envHi) =
          some ((envPair s.cfg (scale8 r)).2 &&& wmask s.cfg (select4 s.cfg.envHi))) ∧
      ∀ t ∈ [setAttack v a s, setAttack v a (setRelease w r s), setRelease w r (setAttack v a s)],
        envelopeMode (t.shadow v) = true ∧ levelVolume (t.shadow v) = levelVolume (s.shadow v)

/-- R300, R301, R186: `Reset` and `Reinit` write every piece of the block's state its reset value, keep `cfg` and
touch no bus. That the environment, the items to come and the outputs of the run are kept is the model's reading (log
entry 8). The values are the spec's own (D40). -/
def Obligations.ResetRestoresTheBlock : Prop :=
  ∀ (s : State),
    execCmd .reset s = .next
      { s with
        parser := ⟨0, 0, 0, 0, 0, 0, 0⟩
        voices := List.replicate s.cfg.n ⟨false, 0, 0, 0, 0⟩
        counter := 0
        lvl := #v[0, 0, 0]
        irqMask := false
        detected := 0
        active := none
        results := s.results ++ [none] } ∧
    execCmd .reinit s = execCmd .reset s

/-- R184: selecting an unknown or undetected kind returns false and changes nothing. -/
def Obligations.SelectOfUndetectedFails : Prop :=
  ∀ (s : State) (kind : Nat), kind ≠ 0 ∨ s.detected = 0 →
    execCmd (.select kind) s = .next { s with results := s.results ++ [some false] }

/-- R183: selecting the detected PSG runs `all_off` on the outgoing backend, if there is one, then `init`, and returns
true; the voices and shadows are clear, the counter, `P` and the detected set are kept. That the outgoing backend gets
`all_off`, and the case of the kind already active, are the spec's own (D29, D31). -/
def Obligations.SelectSilencesThenInitialises : Prop :=
  ∀ (s : State) (ws : List (Byte × Byte)), s.detected = 1 →
    ws = (if s.active = some .psg then (List.range s.cfg.n).map fun v => (levelReg s.cfg v, (0 : Byte)) else []) ++
      initWrites s.cfg →
      execCmd (.select 0) s = .next
        { s with
          active := some .psg
          voices := List.replicate s.cfg.n ⟨false, 0, 0, 0, 0⟩
          lvl := #v[0, 0, 0]
          trace := s.trace ++ writesTrace s.cfg ws
          env := s.env.afterWrites s.cfg ws
          results := s.results ++ [some true] }

/-! ### Detection -/

/-- R259, R262, R263: on a present chip `Detect` answers true and records the PSG, leaves every register of the chip
as it was and the latch at `TONE_LO[0]`, appends 93 trace entries, and changes nothing else of the block. The spec
derives it; the present chip and the registers tested are its own (D30, D33). -/
def Obligations.DetectionFindsAPresentChip : Prop :=
  ∀ (s : State) (p : Psg), s.Inv → s.cfg.chipFits = true → s.env = .present p →
    ∃ added, added.length = 93 ∧
      execCmd .detect s = .next
        { s with
          detected := 1
          env := .present { p with addr := select4 s.cfg.toneLo[0] }
          trace := s.trace ++ added
          results := s.results ++ [some true] }

/-- R260, R72: on an absent chip `Detect` answers false for every constant it may read, and only the trace and the
detected set change. The spec derives it from R253. -/
def Obligations.DetectionRejectsAnAbsentChip : Prop :=
  ∀ (s : State) (x : Byte), s.cfg.mixerRwMask ≠ 0 → s.irqMask = false → s.env = .absent x →
    ∃ added,
      execCmd .detect s = .next
        { s with detected := 0, trace := s.trace ++ added, results := s.results ++ [some false] }

/-- R182, R250, R251, R253 to R258, R261, R263: in any environment a detection run is one interrupt-mask window: four
checkpoint reads; then the write-and-read pairs, which are `detectTests` from its start (`MIXER` with the four patterns,
`LEVEL[0]` with them, `TONE_LO[0]` with the sentinel) up to the first whose answer does not match under its mask; then the
four restore writes of the values first read. It leaves interrupts unmasked and no other state of the block changed. It
answers true exactly when all nine match, and `Detect` records exactly that answer. Where the environment's answers are
listed, the values read are those, in order; the list of answers and the count of answers given are the model's choice
(log entry 3). Which registers are checkpointed and tested is the spec's own choice (D30). -/
def Obligations.DetectionTraceShape : Prop :=
  ∀ (s : State),
    ∃ (c0 c1 c2 c3 : Byte) (tested : List ((Byte × Byte × Byte) × Byte)) (answer : Bool) (e : Env) (window : List BusAction),
      tested.map Prod.fst <+: detectTests s.cfg ∧ tested ≠ [] ∧
      (∀ q ∈ tested.dropLast, testMatches q = true) ∧
      (tested.length < 9 → ∃ q, tested.getLast? = some q ∧ testMatches q = false) ∧
      (answer = true ↔ tested.length = 9 ∧ ∀ q ∈ tested, testMatches q = true) ∧
      (∀ answers n, s.env = .unconstrained answers n → 13 ≤ answers.length →
        [c0, c1, c2, c3] ++ tested.map Prod.snd = answers.take (4 + tested.length) ∧
        e = .unconstrained (answers.drop (4 + tested.length)) (n + (4 + tested.length))) ∧
      window = [.mask] ++
        readTrace s.cfg s.cfg.mixer c0 ++ readTrace s.cfg s.cfg.level[0] c1 ++
        readTrace s.cfg s.cfg.level[1] c2 ++ readTrace s.cfg s.cfg.toneLo[0] c3 ++
        tested.flatMap (fun q => writeTrace s.cfg (q.1.1, q.1.2.1) ++ readTrace s.cfg q.1.1 q.2) ++
        writesTrace s.cfg [(s.cfg.mixer, c0), (s.cfg.level[0], c1), (s.cfg.level[1], c2), (s.cfg.toneLo[0], c3)] ++
        [.unmask] ∧
      detectPsg s = (answer, { s with irqMask := false, env := e, trace := s.trace ++ window }) ∧
      execCmd .detect s = .next
        { s with
          irqMask := false
          env := e
          trace := s.trace ++ window
          detected := if answer then 1 else 0
          results := s.results ++ [some answer] }

/-! ### Invariants of the machine -/

/-- R26, R28, R29, R33, R71, R9 to R12: every step keeps the invariant of the machine. The spec derives R26 and R29's
third clause. That stamps are distinct rests on a counter without bound, the model's choice after the spec's own policy
(D8, log entry 11); that a host `note_on` keeps notes unique rests on a refusal (log entry 7); what the chip holds is of the
spec's own present chip (D33), which `Reset` and `Reinit` keep by the model's reading (log entry 8). -/
def Obligations.StepKeepsTheInvariant : Prop :=
  ∀ s t : State, s.Inv → step s = .next t → t.Inv ∧ t.cfg = s.cfg

/-- The invariant holds right after reset. The state after reset is built on P0, the model's choice (log entry 1). -/
def Obligations.ResetMeetsTheInvariant : Prop := (State.reset).Inv

/-- R43: the shadows agree with the level registers of a present chip after `init`, and every step keeps them so, but
for the block's own reset, which does not touch the chip. The shadows are the spec's own (D18), and the present chip
its own model (D33). -/
def Obligations.ShadowsAgreeWithTheChip : Prop :=
  (∀ (s : State) (p : Psg), s.cfg.valid = true → s.cfg.chipFits = true → s.env = .present p → ShadowsAgree (driverInit s)) ∧
  ∀ s t : State, s.Inv → s.cfg.chipFits = true → LevelsStored s.cfg → ShadowsAgree s → step s = .next t →
    (∀ rest, s.input ≠ .cmd .reset :: rest ∧ s.input ≠ .cmd .reinit :: rest) → ShadowsAgree t

/-- R270, R277: no step faults, and a step is refused only when it takes a host `Op` that R185 or R29 gives no
meaning: every stream byte and every other command completes. -/
def Obligations.OnlyHostOpsAreRefused : Prop :=
  ∀ s : State, (∀ r, step s ≠ .fault r) ∧
    ∀ r, step s = .refused r → ∃ f rest, s.input = .cmd (.op f) :: rest ∧ opError f { s with input := rest } = some r

/-- R29, R151: the counter never falls but by a reset of the block, and a stamp given by a step is above every stamp
of the state before it. That the increment comes first is the spec's own choice (D8). That it never wraps is the model's
choice after the spec's own policy: a counter without bound (D8, log entry 11). -/
def Obligations.StampsOnlyRise : Prop :=
  ∀ s t : State, s.Inv → step s = .next t →
    (∀ rest, s.input ≠ .cmd .reset :: rest ∧ s.input ≠ .cmd .reinit :: rest) →
      s.counter ≤ t.counter ∧
      ∀ v < t.voices.length, (t.voice v).allocatedAt ≠ (s.voice v).allocatedAt → (t.voice v).allocatedAt ≠ 0 →
        ∀ w < s.voices.length, (s.voice w).allocatedAt < (t.voice v).allocatedAt

/-- R272, R276, R300: a configuration with equal ports or no voice is never constructed; a valid one starts at the
reset state with an empty event output and bus trace. Refusing such a configuration is the spec's own reading (D14,
D16). -/
def Obligations.ConstructionValidates : Prop :=
  ∀ (cfg : Config) (env : Env),
    (cfg.addrPort = cfg.dataPort → ∃ errs, construct cfg env = .error errs ∧ ConfigError.equalPorts ∈ errs) ∧
    (cfg.n = 0 → ∃ errs, construct cfg env = .error errs ∧ ConfigError.noVoices ∈ errs) ∧
    (cfg.valid = true → ∃ s, construct cfg env = .ok s ∧ s.cfg = cfg ∧ s.env = env ∧ s.parser = ⟨0, 0, 0, 0, 0, 0, 0⟩ ∧
      s.voices = List.replicate cfg.n ⟨false, 0, 0, 0, 0⟩ ∧ s.counter = 0 ∧ s.lvl = #v[0, 0, 0] ∧ s.irqMask = false ∧
      s.detected = 0 ∧ s.active = none ∧ s.events = [] ∧ s.trace = [])

/-- R180: the channel of a ControlChange, ProgramChange or PitchBend is not used by the Dispatcher. The spec derives
it from R174, R178 and R179. -/
def Obligations.ChannelsMatterOnlyToNotes : Prop :=
  ∀ (s : State) (c c' : BitVec 4) (k v : BitVec 7) (b : Int),
    dispatch (.controlChange k v c) s = dispatch (.controlChange k v c') s ∧
    dispatch (.programChange k c) s = dispatch (.programChange k c') s ∧
    dispatch (.pitchBend b c) s = dispatch (.pitchBend b c') s
end

