-- ==== Sys2Proof/Laws/State.lean ====
section
/-! SUPPORT. One lemma per field of State and per update of it, true by rfl and tagged for simp: no later proof unfolds a
record update. -/

namespace Sys2Proof.Laws

open Sys2Proof.Machine

variable (s : State)

@[simp] theorem setParser_cfg (p : Parser) : (s.setParser p).cfg = s.cfg := rfl
@[simp] theorem setParser_parser (p : Parser) : (s.setParser p).parser = p := rfl
@[simp] theorem setParser_voices (p : Parser) : (s.setParser p).voices = s.voices := rfl
@[simp] theorem setParser_counter (p : Parser) : (s.setParser p).counter = s.counter := rfl
@[simp] theorem setParser_lvl (p : Parser) : (s.setParser p).lvl = s.lvl := rfl
@[simp] theorem setParser_irqMask (p : Parser) : (s.setParser p).irqMask = s.irqMask := rfl
@[simp] theorem setParser_detected (p : Parser) : (s.setParser p).detected = s.detected := rfl
@[simp] theorem setParser_active (p : Parser) : (s.setParser p).active = s.active := rfl
@[simp] theorem setParser_env (p : Parser) : (s.setParser p).env = s.env := rfl
@[simp] theorem setParser_input (p : Parser) : (s.setParser p).input = s.input := rfl
@[simp] theorem setParser_events (p : Parser) : (s.setParser p).events = s.events := rfl
@[simp] theorem setParser_trace (p : Parser) : (s.setParser p).trace = s.trace := rfl
@[simp] theorem setParser_results (p : Parser) : (s.setParser p).results = s.results := rfl

@[simp] theorem setVoice_cfg (v : Nat) (x : Voice) : (s.setVoice v x).cfg = s.cfg := rfl
@[simp] theorem setVoice_parser (v : Nat) (x : Voice) : (s.setVoice v x).parser = s.parser := rfl
@[simp] theorem setVoice_voices (v : Nat) (x : Voice) : (s.setVoice v x).voices = s.voices.set v x := rfl
@[simp] theorem setVoice_counter (v : Nat) (x : Voice) : (s.setVoice v x).counter = s.counter := rfl
@[simp] theorem setVoice_lvl (v : Nat) (x : Voice) : (s.setVoice v x).lvl = s.lvl := rfl
@[simp] theorem setVoice_irqMask (v : Nat) (x : Voice) : (s.setVoice v x).irqMask = s.irqMask := rfl
@[simp] theorem setVoice_detected (v : Nat) (x : Voice) : (s.setVoice v x).detected = s.detected := rfl
@[simp] theorem setVoice_active (v : Nat) (x : Voice) : (s.setVoice v x).active = s.active := rfl
@[simp] theorem setVoice_env (v : Nat) (x : Voice) : (s.setVoice v x).env = s.env := rfl
@[simp] theorem setVoice_input (v : Nat) (x : Voice) : (s.setVoice v x).input = s.input := rfl
@[simp] theorem setVoice_events (v : Nat) (x : Voice) : (s.setVoice v x).events = s.events := rfl
@[simp] theorem setVoice_trace (v : Nat) (x : Voice) : (s.setVoice v x).trace = s.trace := rfl
@[simp] theorem setVoice_results (v : Nat) (x : Voice) : (s.setVoice v x).results = s.results := rfl

@[simp] theorem setShadow_cfg (v : Nat) (x : BitVec 5) : (s.setShadow v x).cfg = s.cfg := rfl
@[simp] theorem setShadow_parser (v : Nat) (x : BitVec 5) : (s.setShadow v x).parser = s.parser := rfl
@[simp] theorem setShadow_voices (v : Nat) (x : BitVec 5) : (s.setShadow v x).voices = s.voices := rfl
@[simp] theorem setShadow_counter (v : Nat) (x : BitVec 5) : (s.setShadow v x).counter = s.counter := rfl
@[simp] theorem setShadow_lvl (v : Nat) (x : BitVec 5) : (s.setShadow v x).lvl = s.lvl.setIfInBounds v x := rfl
@[simp] theorem setShadow_irqMask (v : Nat) (x : BitVec 5) : (s.setShadow v x).irqMask = s.irqMask := rfl
@[simp] theorem setShadow_detected (v : Nat) (x : BitVec 5) : (s.setShadow v x).detected = s.detected := rfl
@[simp] theorem setShadow_active (v : Nat) (x : BitVec 5) : (s.setShadow v x).active = s.active := rfl
@[simp] theorem setShadow_env (v : Nat) (x : BitVec 5) : (s.setShadow v x).env = s.env := rfl
@[simp] theorem setShadow_input (v : Nat) (x : BitVec 5) : (s.setShadow v x).input = s.input := rfl
@[simp] theorem setShadow_events (v : Nat) (x : BitVec 5) : (s.setShadow v x).events = s.events := rfl
@[simp] theorem setShadow_trace (v : Nat) (x : BitVec 5) : (s.setShadow v x).trace = s.trace := rfl
@[simp] theorem setShadow_results (v : Nat) (x : BitVec 5) : (s.setShadow v x).results = s.results := rfl

@[simp] theorem setDetected_cfg (d : BitVec 1) : (s.setDetected d).cfg = s.cfg := rfl
@[simp] theorem setDetected_parser (d : BitVec 1) : (s.setDetected d).parser = s.parser := rfl
@[simp] theorem setDetected_voices (d : BitVec 1) : (s.setDetected d).voices = s.voices := rfl
@[simp] theorem setDetected_counter (d : BitVec 1) : (s.setDetected d).counter = s.counter := rfl
@[simp] theorem setDetected_lvl (d : BitVec 1) : (s.setDetected d).lvl = s.lvl := rfl
@[simp] theorem setDetected_irqMask (d : BitVec 1) : (s.setDetected d).irqMask = s.irqMask := rfl
@[simp] theorem setDetected_detected (d : BitVec 1) : (s.setDetected d).detected = d := rfl
@[simp] theorem setDetected_active (d : BitVec 1) : (s.setDetected d).active = s.active := rfl
@[simp] theorem setDetected_env (d : BitVec 1) : (s.setDetected d).env = s.env := rfl
@[simp] theorem setDetected_input (d : BitVec 1) : (s.setDetected d).input = s.input := rfl
@[simp] theorem setDetected_events (d : BitVec 1) : (s.setDetected d).events = s.events := rfl
@[simp] theorem setDetected_trace (d : BitVec 1) : (s.setDetected d).trace = s.trace := rfl
@[simp] theorem setDetected_results (d : BitVec 1) : (s.setDetected d).results = s.results := rfl

@[simp] theorem addDetected_cfg (b : Backend) : (s.addDetected b).cfg = s.cfg := rfl
@[simp] theorem addDetected_parser (b : Backend) : (s.addDetected b).parser = s.parser := rfl
@[simp] theorem addDetected_voices (b : Backend) : (s.addDetected b).voices = s.voices := rfl
@[simp] theorem addDetected_counter (b : Backend) : (s.addDetected b).counter = s.counter := rfl
@[simp] theorem addDetected_lvl (b : Backend) : (s.addDetected b).lvl = s.lvl := rfl
@[simp] theorem addDetected_irqMask (b : Backend) : (s.addDetected b).irqMask = s.irqMask := rfl
@[simp] theorem addDetected_detected (b : Backend) : (s.addDetected b).detected = s.detected ||| BitVec.twoPow 1 b.bit := rfl
@[simp] theorem addDetected_active (b : Backend) : (s.addDetected b).active = s.active := rfl
@[simp] theorem addDetected_env (b : Backend) : (s.addDetected b).env = s.env := rfl
@[simp] theorem addDetected_input (b : Backend) : (s.addDetected b).input = s.input := rfl
@[simp] theorem addDetected_events (b : Backend) : (s.addDetected b).events = s.events := rfl
@[simp] theorem addDetected_trace (b : Backend) : (s.addDetected b).trace = s.trace := rfl
@[simp] theorem addDetected_results (b : Backend) : (s.addDetected b).results = s.results := rfl

@[simp] theorem setActive_cfg (b : Option Backend) : (s.setActive b).cfg = s.cfg := rfl
@[simp] theorem setActive_parser (b : Option Backend) : (s.setActive b).parser = s.parser := rfl
@[simp] theorem setActive_voices (b : Option Backend) : (s.setActive b).voices = s.voices := rfl
@[simp] theorem setActive_counter (b : Option Backend) : (s.setActive b).counter = s.counter := rfl
@[simp] theorem setActive_lvl (b : Option Backend) : (s.setActive b).lvl = s.lvl := rfl
@[simp] theorem setActive_irqMask (b : Option Backend) : (s.setActive b).irqMask = s.irqMask := rfl
@[simp] theorem setActive_detected (b : Option Backend) : (s.setActive b).detected = s.detected := rfl
@[simp] theorem setActive_active (b : Option Backend) : (s.setActive b).active = b := rfl
@[simp] theorem setActive_env (b : Option Backend) : (s.setActive b).env = s.env := rfl
@[simp] theorem setActive_input (b : Option Backend) : (s.setActive b).input = s.input := rfl
@[simp] theorem setActive_events (b : Option Backend) : (s.setActive b).events = s.events := rfl
@[simp] theorem setActive_trace (b : Option Backend) : (s.setActive b).trace = s.trace := rfl
@[simp] theorem setActive_results (b : Option Backend) : (s.setActive b).results = s.results := rfl

@[simp] theorem setInput_cfg (q : List Item) : (s.setInput q).cfg = s.cfg := rfl
@[simp] theorem setInput_parser (q : List Item) : (s.setInput q).parser = s.parser := rfl
@[simp] theorem setInput_voices (q : List Item) : (s.setInput q).voices = s.voices := rfl
@[simp] theorem setInput_counter (q : List Item) : (s.setInput q).counter = s.counter := rfl
@[simp] theorem setInput_lvl (q : List Item) : (s.setInput q).lvl = s.lvl := rfl
@[simp] theorem setInput_irqMask (q : List Item) : (s.setInput q).irqMask = s.irqMask := rfl
@[simp] theorem setInput_detected (q : List Item) : (s.setInput q).detected = s.detected := rfl
@[simp] theorem setInput_active (q : List Item) : (s.setInput q).active = s.active := rfl
@[simp] theorem setInput_env (q : List Item) : (s.setInput q).env = s.env := rfl
@[simp] theorem setInput_input (q : List Item) : (s.setInput q).input = q := rfl
@[simp] theorem setInput_events (q : List Item) : (s.setInput q).events = s.events := rfl
@[simp] theorem setInput_trace (q : List Item) : (s.setInput q).trace = s.trace := rfl
@[simp] theorem setInput_results (q : List Item) : (s.setInput q).results = s.results := rfl

@[simp] theorem addEvent_cfg (e : Event) : (s.addEvent e).cfg = s.cfg := rfl
@[simp] theorem addEvent_parser (e : Event) : (s.addEvent e).parser = s.parser := rfl
@[simp] theorem addEvent_voices (e : Event) : (s.addEvent e).voices = s.voices := rfl
@[simp] theorem addEvent_counter (e : Event) : (s.addEvent e).counter = s.counter := rfl
@[simp] theorem addEvent_lvl (e : Event) : (s.addEvent e).lvl = s.lvl := rfl
@[simp] theorem addEvent_irqMask (e : Event) : (s.addEvent e).irqMask = s.irqMask := rfl
@[simp] theorem addEvent_detected (e : Event) : (s.addEvent e).detected = s.detected := rfl
@[simp] theorem addEvent_active (e : Event) : (s.addEvent e).active = s.active := rfl
@[simp] theorem addEvent_env (e : Event) : (s.addEvent e).env = s.env := rfl
@[simp] theorem addEvent_input (e : Event) : (s.addEvent e).input = s.input := rfl
@[simp] theorem addEvent_events (e : Event) : (s.addEvent e).events = s.events ++ [e] := rfl
@[simp] theorem addEvent_trace (e : Event) : (s.addEvent e).trace = s.trace := rfl
@[simp] theorem addEvent_results (e : Event) : (s.addEvent e).results = s.results := rfl

@[simp] theorem addResult_cfg (r : Option Bool) : (s.addResult r).cfg = s.cfg := rfl
@[simp] theorem addResult_parser (r : Option Bool) : (s.addResult r).parser = s.parser := rfl
@[simp] theorem addResult_voices (r : Option Bool) : (s.addResult r).voices = s.voices := rfl
@[simp] theorem addResult_counter (r : Option Bool) : (s.addResult r).counter = s.counter := rfl
@[simp] theorem addResult_lvl (r : Option Bool) : (s.addResult r).lvl = s.lvl := rfl
@[simp] theorem addResult_irqMask (r : Option Bool) : (s.addResult r).irqMask = s.irqMask := rfl
@[simp] theorem addResult_detected (r : Option Bool) : (s.addResult r).detected = s.detected := rfl
@[simp] theorem addResult_active (r : Option Bool) : (s.addResult r).active = s.active := rfl
@[simp] theorem addResult_env (r : Option Bool) : (s.addResult r).env = s.env := rfl
@[simp] theorem addResult_input (r : Option Bool) : (s.addResult r).input = s.input := rfl
@[simp] theorem addResult_events (r : Option Bool) : (s.addResult r).events = s.events := rfl
@[simp] theorem addResult_trace (r : Option Bool) : (s.addResult r).trace = s.trace := rfl
@[simp] theorem addResult_results (r : Option Bool) : (s.addResult r).results = s.results ++ [r] := rfl

@[simp] theorem addTrace_cfg (a : BusAction) : (s.addTrace a).cfg = s.cfg := rfl
@[simp] theorem addTrace_parser (a : BusAction) : (s.addTrace a).parser = s.parser := rfl
@[simp] theorem addTrace_voices (a : BusAction) : (s.addTrace a).voices = s.voices := rfl
@[simp] theorem addTrace_counter (a : BusAction) : (s.addTrace a).counter = s.counter := rfl
@[simp] theorem addTrace_lvl (a : BusAction) : (s.addTrace a).lvl = s.lvl := rfl
@[simp] theorem addTrace_irqMask (a : BusAction) : (s.addTrace a).irqMask = s.irqMask := rfl
@[simp] theorem addTrace_detected (a : BusAction) : (s.addTrace a).detected = s.detected := rfl
@[simp] theorem addTrace_active (a : BusAction) : (s.addTrace a).active = s.active := rfl
@[simp] theorem addTrace_env (a : BusAction) : (s.addTrace a).env = s.env := rfl
@[simp] theorem addTrace_input (a : BusAction) : (s.addTrace a).input = s.input := rfl
@[simp] theorem addTrace_events (a : BusAction) : (s.addTrace a).events = s.events := rfl
@[simp] theorem addTrace_trace (a : BusAction) : (s.addTrace a).trace = s.trace ++ [a] := rfl
@[simp] theorem addTrace_results (a : BusAction) : (s.addTrace a).results = s.results := rfl


/-! ### Voices and shadows -/

theorem voice_of_voices (t : State) (h : t.voices = s.voices) (v : Nat) : t.voice v = s.voice v := by
  simp [State.voice, h]

theorem voice_set_self (t : State) (v : Nat) (x : Voice) (h : t.voices = s.voices.set v x) (hv : v < s.voices.length) :
    t.voice v = x := by
  simp [State.voice, h, hv]

theorem voice_set_other (t : State) (v w : Nat) (x : Voice) (h : t.voices = s.voices.set v x) (hw : w ≠ v) :
    t.voice w = s.voice w := by
  simp [State.voice, h, List.getElem?_set_ne (Ne.symm hw)]

theorem voice_eq_getElem (v : Nat) (hv : v < s.voices.length) : s.voice v = s.voices[v] := by
  simp [State.voice, hv]

theorem shadow_setShadow_self (v : Nat) (x : BitVec 5) (hv : v < 3) : (s.setShadow v x).shadow v = x := by
  simp [State.shadow, State.setShadow, hv]

theorem shadow_setShadow_other (v w : Nat) (x : BitVec 5) (hw : w ≠ v) :
    (s.setShadow v x).shadow w = s.shadow w := by
  simp [State.shadow, State.setShadow, Ne.symm hw]

end Sys2Proof.Laws
end

