-- ==== Sys2Proof/Laws/Allocator.lean ====
section
/-! SUPPORT. What the allocator's scans answer, said once: the lowest index that matches, or that none does (R152, R155,
R156). -/

namespace Sys2Proof.Laws

open Sys2Proof.Machine

variable (s : State)

/-- An ascending scan that answers `v` found the lowest match. -/
theorem scan_some (f : Voice → Bool) (v : Nat) (h : s.voices.findIdx? f = some v) :
    v < s.voices.length ∧ f (s.voice v) = true ∧ ∀ w < v, f (s.voice w) = false := by
  rw [List.findIdx?_eq_some_iff_getElem] at h
  obtain ⟨hv, hf, hmin⟩ := h
  refine ⟨hv, by rw [voice_eq_getElem s v hv]; exact hf, fun w hw => ?_⟩
  rw [voice_eq_getElem s w (by omega)]
  simpa using hmin w hw

/-- An ascending scan that answers none found no match. -/
theorem scan_none (f : Voice → Bool) (h : s.voices.findIdx? f = none) :
    ∀ w < s.voices.length, f (s.voice w) = false := by
  intro w hw
  rw [List.findIdx?_eq_none_iff] at h
  rw [voice_eq_getElem s w hw]
  exact h _ (List.getElem_mem hw)

theorem findByNote_some (note : BitVec 7) (channel : BitVec 4) (v : Nat) (h : findByNote note channel s = some v) :
    v < s.voices.length ∧ (s.voice v).sounds note channel = true ∧
      ∀ w < v, (s.voice w).sounds note channel = false := scan_some s _ v h

theorem findByNote_none (note : BitVec 7) (channel : BitVec 4) (h : findByNote note channel s = none) :
    ∀ w < s.voices.length, (s.voice w).sounds note channel = false := scan_none s _ h

theorem firstActive_some (v : Nat) (h : firstActive s = some v) :
    v < s.voices.length ∧ (s.voice v).active = true ∧ ∀ w < v, (s.voice w).active = false := scan_some s _ v h

theorem firstActive_none (h : firstActive s = none) : ∀ w < s.voices.length, (s.voice w).active = false :=
  scan_none s _ h

theorem sounds_iff (x : Voice) (note : BitVec 7) (channel : BitVec 4) :
    x.sounds note channel = true ↔ x.active = true ∧ x.note = note ∧ x.channel = channel := by
  simp [Voice.sounds, and_assoc]

/-- The steal scan answers its best so far or an index of the rest. -/
theorem oldestFrom_bound (best stamp i : Nat) (vs : List Voice) :
    oldestFrom best stamp i vs = best ∨
      i ≤ oldestFrom best stamp i vs ∧ oldestFrom best stamp i vs < i + vs.length := by
  induction vs generalizing best stamp i with
  | nil => exact .inl rfl
  | cons x rest ih =>
    simp only [oldestFrom, List.length_cons]
    split
    · rcases ih i x.allocatedAt (i + 1) with h | h <;> omega
    · rcases ih best stamp (i + 1) with h | h <;> omega

theorem oldest_lt (vs : List Voice) (h : vs ≠ []) : oldest vs < vs.length := by
  cases vs with
  | nil => exact absurd rfl h
  | cons x rest =>
    simp only [oldest, List.length_cons]
    rcases oldestFrom_bound 0 x.allocatedAt 1 rest with h | h <;> omega

/-- `allocate` always has an index when there is a voice (R158). -/
theorem allocIndex_lt (h : s.voices ≠ []) : allocIndex s < s.voices.length := by
  unfold allocIndex
  split
  · next v hv => exact (scan_some s _ v hv).1
  · exact oldest_lt _ h

/-- `allocate` at an index of the table: the slot, the counter, and nothing else (R152). -/
theorem allocate_eq (note velocity : BitVec 7) (channel : BitVec 4) (h : s.voices ≠ []) :
    allocate note velocity channel s =
      (allocIndex s,
        { s with
          voices := s.voices.set (allocIndex s) ⟨true, note, velocity, channel, s.counter + 1⟩
          counter := s.counter + 1 }) := by
  have hv := allocIndex_lt s h
  simp [allocate, stamp, State.setVoice, State.voice, hv]

/-- `allocate` at any table: the index taken, one stamp, and at most the voice table (R152). -/
theorem allocate_effect (note velocity : BitVec 7) (channel : BitVec 4) :
    ∃ vs, allocate note velocity channel s = (allocIndex s, { s with voices := vs, counter := s.counter + 1 }) :=
  ⟨_, rfl⟩

end Sys2Proof.Laws
end

