-- ==== Sys2Proof/Laws/Bus.lean ====
section
/-! SUPPORT. What the transactions do, said once: a `RegWrite` appends its trace and moves the environment, and nothing
else; a `RegRead` answers what the environment holds after the select write. -/

namespace Sys2Proof.Laws

open Sys2Proof.Machine

theorem regWrite_eq (r v : Byte) (s : State) :
    regWrite r v s =
      { s with
        trace := s.trace ++ writeTrace s.cfg (r, v)
        env := (s.env.onWrite s.cfg s.cfg.addrPort r).onWrite s.cfg s.cfg.dataPort v } := by
  simp [regWrite, portWrite, settle, State.addTrace, writeTrace]

theorem writesTrace_nil (cfg : Config) : writesTrace cfg [] = [] := rfl

theorem writesTrace_cons (cfg : Config) (w : Byte × Byte) (ws : List (Byte × Byte)) :
    writesTrace cfg (w :: ws) = writeTrace cfg w ++ writesTrace cfg ws := rfl

theorem writesTrace_append (cfg : Config) (a b : List (Byte × Byte)) :
    writesTrace cfg (a ++ b) = writesTrace cfg a ++ writesTrace cfg b := by
  simp [writesTrace]

theorem afterWrites_append (cfg : Config) (a b : List (Byte × Byte)) (e : Env) :
    e.afterWrites cfg (a ++ b) = (e.afterWrites cfg a).afterWrites cfg b := by
  simp [Env.afterWrites]

/-- A list of `RegWrite`s appends its trace and moves the environment, and changes nothing else. -/
theorem regWrites_eq (ws : List (Byte × Byte)) (s : State) :
    regWrites ws s =
      { s with trace := s.trace ++ writesTrace s.cfg ws, env := s.env.afterWrites s.cfg ws } := by
  induction ws generalizing s with
  | nil => simp [regWrites, writesTrace, Env.afterWrites]
  | cons w ws ih =>
    have h : regWrites (w :: ws) s = regWrites ws (regWrite w.1 w.2 s) := rfl
    rw [h, ih, regWrite_eq]
    simp [writesTrace_cons, Env.afterWrites]

theorem regWrites_append (a b : List (Byte × Byte)) (s : State) :
    regWrites (a ++ b) s = regWrites b (regWrites a s) := by
  simp [regWrites]

/-- A `RegRead` answers what the environment holds after the select write, appends its trace, and changes nothing
else. -/
theorem regRead_eq (r : Byte) (s : State) :
    regRead r s =
      ((s.env.onWrite s.cfg s.cfg.addrPort r).answer,
        { s with
          trace := s.trace ++ readTrace s.cfg r (s.env.onWrite s.cfg s.cfg.addrPort r).answer
          env := (s.env.onWrite s.cfg s.cfg.addrPort r).onRead }) := by
  simp [regRead, portRead, portWrite, settle, State.addTrace, readTrace]

/-! ### The present chip -/

theorem read_write_self (cfg : Config) (p : Psg) (i : BitVec 4) (v : Byte) :
    (p.write cfg i v).read i = v &&& wmask cfg i := by
  simp [Psg.write, Psg.read, Vector.get_eq_getElem]

theorem read_write_other (cfg : Config) (p : Psg) (i j : BitVec 4) (v : Byte) (h : j ≠ i) :
    (p.write cfg i v).read j = p.read j := by
  have hne : i.toNat ≠ j.toNat := fun e => h (BitVec.eq_of_toNat_eq e.symm)
  simp [Psg.write, Psg.read, Vector.get_eq_getElem, hne]

/-- A select write moves the latch and no register (R71). -/
theorem reg_select (cfg : Config) (r : Byte) (e : Env) (i : BitVec 4) :
    (e.onWrite cfg cfg.addrPort r).reg i = e.reg i := by
  cases e <;> simp [Env.onWrite, Env.reg, Psg.read]

/-- One `RegWrite` on a present chip with two different ports: the latch holds the index, the selected register the
masked value (R62, R71). -/
theorem afterWrites_one (cfg : Config) (hp : cfg.addrPort ≠ cfg.dataPort) (w : Byte × Byte) (p : Psg) :
    Env.afterWrites cfg [w] (.present p) =
      .present (({ p with addr := select4 w.1 } : Psg).write cfg (select4 w.1) w.2) := by
  simp [Env.afterWrites, Env.onWrite, hp.symm, select4]

theorem afterWrites_cons (cfg : Config) (w : Byte × Byte) (ws : List (Byte × Byte)) (e : Env) :
    e.afterWrites cfg (w :: ws) = (e.afterWrites cfg [w]).afterWrites cfg ws := rfl

/-- One `RegWrite` on a present chip: the selected register takes the masked value, every other keeps its own (R62,
R71). -/
theorem reg_afterWrite (cfg : Config) (hp : cfg.addrPort ≠ cfg.dataPort) (w : Byte × Byte) (p : Psg) (i : BitVec 4) :
    (Env.afterWrites cfg [w] (.present p)).reg i =
      some (if i = select4 w.1 then w.2 &&& wmask cfg i else p.read i) := by
  rw [afterWrites_one cfg hp]
  by_cases h : i = select4 w.1
  · subst h; simp [Env.reg, read_write_self]
  · simp only [Env.reg, read_write_other cfg _ _ _ w.2 h, if_neg h]
    rfl

/-- A present chip stays present. -/
theorem afterWrites_present (cfg : Config) (hp : cfg.addrPort ≠ cfg.dataPort) (ws : List (Byte × Byte)) (p : Psg) :
    ∃ q, Env.afterWrites cfg ws (.present p) = .present q := by
  induction ws generalizing p with
  | nil => exact ⟨p, rfl⟩
  | cons w ws ih =>
    rw [afterWrites_cons, afterWrites_one cfg hp]
    exact ih _

/-- A register whose index no write of the list selects keeps its value, in any environment (R62, R71). -/
theorem reg_afterWrites_frame (cfg : Config) (hp : cfg.addrPort ≠ cfg.dataPort) (ws : List (Byte × Byte)) (e : Env)
    (i : BitVec 4) (h : ∀ w ∈ ws, select4 w.1 ≠ i) : (e.afterWrites cfg ws).reg i = e.reg i := by
  induction ws generalizing e with
  | nil => rfl
  | cons w ws ih =>
    rw [afterWrites_cons, ih _ fun x hx => h x (List.mem_cons_of_mem _ hx)]
    have hw : select4 w.1 ≠ i := h w List.mem_cons_self
    cases e with
    | present p => rw [reg_afterWrite cfg hp]; simp [Ne.symm hw, Env.reg]
    | absent x => rfl
    | unconstrained a r => rfl

/-- Every register holds only the bits its mask stores after a write, if it did before (R71). -/
theorem chipMasked_afterWrites (cfg : Config) (hp : cfg.addrPort ≠ cfg.dataPort) (ws : List (Byte × Byte)) (e : Env)
    (h : ChipMasked cfg e) : ChipMasked cfg (e.afterWrites cfg ws) := by
  induction ws generalizing e with
  | nil => exact h
  | cons w ws ih =>
    rw [afterWrites_cons]
    refine ih _ ?_
    cases e with
    | present p =>
      intro i x hx
      rw [reg_afterWrite cfg hp] at hx
      obtain rfl := Option.some.inj hx
      split
      · rw [BitVec.and_assoc, BitVec.and_self]
      · exact h i _ rfl
    | absent x => exact h
    | unconstrained a r => exact h

end Sys2Proof.Laws
end

