-- ==== Sys2Proof/Laws/Config.lean ====
section
/-! SUPPORT. What a valid configuration gives, said once (R9 to R12), and the ordering of its period table. -/

namespace Sys2Proof.Laws

/-- A list of named checks breaks none exactly when every check holds. -/
theorem no_errors {α : Type} (cs : List (Bool × α)) :
    (cs.filterMap fun p => if p.1 then none else some p.2) = [] ↔ ∀ p ∈ cs, p.1 = true := by
  rw [List.filterMap_eq_nil_iff]
  refine forall₂_congr fun p _ => ?_
  cases p.1 <;> simp

/-- The constraints of a valid configuration (R9 to R12). -/
theorem valid_spec (c : Config) (h : c.valid = true) :
    (1 ≤ c.n ∧ c.n ≤ 3) ∧ c.addrPort ≠ c.dataPort ∧ c.indices.Nodup ∧ c.mixerRwMask ≠ 0 ∧ c.levelRwMask ≠ 0 ∧
      (c.noteMin ≤ c.noteMax ∧ c.noteMax ≤ 127) ∧ c.period.length = c.noteMax + 1 - c.noteMin ∧
      (∀ p ∈ c.period, 1 ≤ p ∧ p ≤ 4095) ∧ nonIncreasing c.period = true ∧ 8192 ≤ c.bendK ∧
      c.ccMap.length = 128 ∧ c.envBytes.length = 256 ∧ c.wmaskCovers = true := by
  rw [Config.valid, List.isEmpty_iff, Config.errors, no_errors] at h
  simp only [List.mem_cons, List.not_mem_nil, or_false, forall_eq_or_imp, forall_eq, Bool.and_eq_true,
    decide_eq_true_eq, bne_iff_ne, beq_iff_eq, List.all_eq_true, ne_eq] at h
  tauto

/-- A table that never rises has no larger entry at a larger index (R12). -/
theorem nonIncreasing_le (xs : List Nat) (h : nonIncreasing xs = true) (i j : Nat) (hij : i ≤ j) (hj : j < xs.length) :
    xs[j] ≤ xs[i]'(by omega) := by
  induction xs generalizing i j with
  | nil => simp at hj
  | cons a rest ih =>
    have step : ∀ k (hk : k < rest.length), rest[k] ≤ a := by
      intro k hk
      cases rest with
      | nil => simp at hk
      | cons b rest' =>
        simp only [nonIncreasing, Bool.and_eq_true, decide_eq_true_eq] at h
        exact (ih h.2 0 k (by omega) hk).trans h.1
    have tail : nonIncreasing rest = true := by
      cases rest with
      | nil => rfl
      | cons b rest' => simp only [nonIncreasing, Bool.and_eq_true] at h; exact h.2
    cases j with
    | zero => obtain rfl : i = 0 := by omega
              exact le_rfl
    | succ j =>
      cases i with
      | zero => exact step j (by simpa using hj)
      | succ i => exact ih tail i j (by omega) (by simpa using hj)

end Sys2Proof.Laws
end

