-- ==== Sys2Proof/Laws/Detect.lean ====
section
/-! SUPPORT. What a detection run can do, said once: on every path it appends one interrupt-mask window of whole
transactions to the trace, moves the environment, leaves interrupts unmasked, and changes nothing else (R250, R251,
R257). -/

namespace Sys2Proof.Laws

open Sys2Proof.Machine

theorem Guarded.append {cfg : Config} {a b : List BusAction} (ha : Guarded cfg a) (hb : Guarded cfg b) :
    Guarded cfg (a ++ b) := by
  induction ha with
  | nil => exact hb
  | write r v t _ ih => rw [List.append_assoc]; exact .write r v _ ih
  | read r v t _ ih => rw [List.append_assoc]; exact .read r v _ ih

theorem Guarded.writes (cfg : Config) (ws : List (Byte × Byte)) : Guarded cfg (writesTrace cfg ws) := by
  induction ws with
  | nil => exact .nil
  | cons w ws ih => rw [writesTrace_cons]; exact .write w.1 w.2 _ ih

theorem Guarded.one_read (cfg : Config) (r v : Byte) : Guarded cfg (readTrace cfg r v) := by
  simpa using Guarded.read r v [] (Guarded.nil (cfg := cfg))

/-- `t` differs from `s` by bus transactions only: its trace is `s`'s with `body` after it, and its environment may have
moved. -/
def Bussed (s : State) (body : List BusAction) (t : State) : Prop :=
  Guarded s.cfg body ∧ ∃ e, t = { s with trace := s.trace ++ body, env := e }

theorem Bussed.refl (s : State) : Bussed s [] s := ⟨.nil, s.env, by simp⟩

theorem Bussed.cfg {s t : State} {body : List BusAction} (h : Bussed s body t) : t.cfg = s.cfg := by
  obtain ⟨_, e, rfl⟩ := h; rfl

theorem Bussed.trans {s t u : State} {a b : List BusAction} (h : Bussed s a t) (k : Bussed t b u) :
    Bussed s (a ++ b) u := by
  obtain ⟨ga, e, rfl⟩ := h
  obtain ⟨gb, e', rfl⟩ := k
  exact ⟨Guarded.append ga gb, e', by simp⟩

theorem bussed_regWrites (ws : List (Byte × Byte)) (s : State) :
    Bussed s (writesTrace s.cfg ws) (regWrites ws s) :=
  ⟨Guarded.writes _ _, _, regWrites_eq ws s⟩

theorem bussed_regWrite (r v : Byte) (s : State) : Bussed s (writeTrace s.cfg (r, v)) (regWrite r v s) := by
  have h : Bussed s (writesTrace s.cfg [(r, v)]) (regWrite r v s) := bussed_regWrites [(r, v)] s
  simpa [writesTrace] using h

theorem bussed_regRead (r : Byte) (s : State) : ∃ v, Bussed s (readTrace s.cfg r v) (regRead r s).2 :=
  ⟨_, Guarded.one_read _ _ _, _, by rw [regRead_eq]⟩

theorem bussed_checkpoint (s : State) : ∃ body, Bussed s body (checkpoint s).2 := by
  obtain ⟨_, h1⟩ := bussed_regRead s.cfg.mixer s
  obtain ⟨_, h2⟩ := bussed_regRead s.cfg.level[0] (regRead s.cfg.mixer s).2
  obtain ⟨_, h3⟩ := bussed_regRead s.cfg.level[1] (regRead s.cfg.level[0] (regRead s.cfg.mixer s).2).2
  obtain ⟨_, h4⟩ := bussed_regRead s.cfg.toneLo[0]
    (regRead s.cfg.level[1] (regRead s.cfg.level[0] (regRead s.cfg.mixer s).2).2).2
  exact ⟨_, (((h1.trans h2).trans h3).trans h4)⟩

theorem bussed_testPatterns (r mask : Byte) (pats : List Byte) (s : State) :
    ∃ body, Bussed s body (testPatterns r mask pats s).2 := by
  induction pats generalizing s with
  | nil => exact ⟨[], Bussed.refl s⟩
  | cons pat rest ih =>
    have h1 := bussed_regWrite r pat s
    obtain ⟨v, h2⟩ := bussed_regRead r (regWrite r pat s)
    have h12 := h1.trans h2
    simp only [testPatterns]
    split
    · obtain ⟨body, h3⟩ := ih (regRead r (regWrite r pat s)).2
      exact ⟨_, h12.trans h3⟩
    · exact ⟨_, h12⟩

theorem bussed_testSentinel (s : State) : ∃ body, Bussed s body (testSentinel s).2 := by
  have h1 := bussed_regWrite s.cfg.toneLo[0] s.cfg.detectSentinel s
  obtain ⟨v, h2⟩ := bussed_regRead s.cfg.toneLo[0] (regWrite s.cfg.toneLo[0] s.cfg.detectSentinel s)
  exact ⟨_, h1.trans h2⟩

theorem bussed_runTests (s : State) : ∃ body, Bussed s body (runTests s).2 := by
  unfold runTests
  obtain ⟨b1, h1⟩ := bussed_testPatterns s.cfg.mixer s.cfg.mixerRwMask patterns s
  dsimp only
  split
  · obtain ⟨b2, h2⟩ := bussed_testPatterns s.cfg.level[0] s.cfg.levelRwMask patterns
      (testPatterns s.cfg.mixer s.cfg.mixerRwMask patterns s).2
    split
    · obtain ⟨b3, h3⟩ := bussed_testSentinel (testPatterns s.cfg.level[0] s.cfg.levelRwMask patterns
        (testPatterns s.cfg.mixer s.cfg.mixerRwMask patterns s).2).2
      exact ⟨_, (h1.trans h2).trans h3⟩
    · exact ⟨_, h1.trans h2⟩
  · exact ⟨_, h1⟩

/-- Every detection run: one window, whole transactions inside, interrupts unmasked at the end, nothing else of the
block changed (R250, R251, R257). -/
theorem detectPsg_effect (s : State) :
    ∃ body e,
      Guarded s.cfg body ∧
        (detectPsg s).2 =
          { s with irqMask := false, trace := s.trace ++ (BusAction.mask :: (body ++ [.unmask])), env := e } := by
  obtain ⟨b1, h1⟩ := bussed_checkpoint (irqMask s)
  obtain ⟨b2, h2⟩ := bussed_runTests (checkpoint (irqMask s)).2
  have h3 := bussed_regWrites
    [((runTests (checkpoint (irqMask s)).2).2.cfg.mixer, (checkpoint (irqMask s)).1.mix),
      ((runTests (checkpoint (irqMask s)).2).2.cfg.level[0], (checkpoint (irqMask s)).1.l0),
      ((runTests (checkpoint (irqMask s)).2).2.cfg.level[1], (checkpoint (irqMask s)).1.l1),
      ((runTests (checkpoint (irqMask s)).2).2.cfg.toneLo[0], (checkpoint (irqMask s)).1.f)]
    (runTests (checkpoint (irqMask s)).2).2
  obtain ⟨hg, e, he⟩ := (h1.trans h2).trans h3
  refine ⟨_, e, hg, ?_⟩
  simp only [detectPsg, restore]
  rw [he]
  simp [irqUnmask, irqMask]

/-! ### The detected set does not matter to a run -/

theorem testPatterns_setDetected (r mask : Byte) (d : BitVec 1) (pats : List Byte) (s : State) :
    testPatterns r mask pats (s.setDetected d) =
      ((testPatterns r mask pats s).1, (testPatterns r mask pats s).2.setDetected d) := by
  induction pats generalizing s with
  | nil => rfl
  | cons pat rest ih =>
    have h : testPatterns r mask (pat :: rest) (s.setDetected d) =
        if (regRead r (regWrite r pat s)).1 &&& mask = pat &&& mask then
          testPatterns r mask rest ((regRead r (regWrite r pat s)).2.setDetected d)
        else (false, (regRead r (regWrite r pat s)).2.setDetected d) := rfl
    rw [h, ih, testPatterns]
    split_ifs <;> rfl

theorem runTests_setDetected (d : BitVec 1) (s : State) :
    runTests (s.setDetected d) = ((runTests s).1, (runTests s).2.setDetected d) := by
  have h : ∀ s : State, (s.setDetected d).cfg = s.cfg := fun _ => rfl
  simp only [runTests, testPatterns_setDetected, h]
  split_ifs <;> rfl

/-- A detection run neither reads nor writes `S.detected` (R250, R261). -/
theorem detectPsg_setDetected (d : BitVec 1) (s : State) :
    detectPsg (s.setDetected d) = ((detectPsg s).1, (detectPsg s).2.setDetected d) := by
  have hc : checkpoint (irqMask (s.setDetected d)) =
      ((checkpoint (irqMask s)).1, (checkpoint (irqMask s)).2.setDetected d) := rfl
  simp only [detectPsg, hc, runTests_setDetected]
  rfl

end Sys2Proof.Laws
end

