-- ==== Sys2Proof/Laws/Driver.lean ====
section
/-! SUPPORT. What each operation of the PSG driver does, said once: the fields it changes and what they become (R206 to
R233). Every field not named keeps its value. -/

namespace Sys2Proof.Laws

open Sys2Proof.Machine

variable (s : State)

theorem writePeriod_eq (v p : Nat) :
    writePeriod v p s =
      { s with
        trace := s.trace ++ writesTrace s.cfg (periodWrites s.cfg v p)
        env := s.env.afterWrites s.cfg (periodWrites s.cfg v p) } := regWrites_eq _ _

theorem writeLevel_eq (v : Nat) (x : BitVec 5) :
    writeLevel v x s =
      { s with
        lvl := s.lvl.setIfInBounds v x
        trace := s.trace ++ writesTrace s.cfg [levelWrite s.cfg v x]
        env := s.env.afterWrites s.cfg [levelWrite s.cfg v x] } := by
  simp only [writeLevel, regWrites_eq]; rfl

theorem writeEnvPeriod_eq (x : Byte) :
    writeEnvPeriod x s =
      { s with
        trace := s.trace ++ writesTrace s.cfg (envPeriodWrites s.cfg x)
        env := s.env.afterWrites s.cfg (envPeriodWrites s.cfg x) } := regWrites_eq _ _

theorem driverInit_eq :
    driverInit s =
      { s with
        voices := List.replicate s.cfg.n Voice.empty
        lvl := Vector.replicate 3 0
        trace := s.trace ++ writesTrace s.cfg (initWrites s.cfg)
        env := s.env.afterWrites s.cfg (initWrites s.cfg) } := by
  simp only [driverInit, regWrites_eq]

theorem noteOff_eq (v : Nat) :
    noteOff v s =
      { s with
        voices := s.voices.set v { s.voice v with active := false }
        lvl := s.lvl.setIfInBounds v 0
        trace := s.trace ++ writesTrace s.cfg [levelWrite s.cfg v 0]
        env := s.env.afterWrites s.cfg [levelWrite s.cfg v 0] } := by
  simp only [noteOff, writeLevel_eq]; rfl

/-- The `RegWrite`s of `note_on` (R213). -/
theorem noteOn_eq (v : Nat) (note velocity : BitVec 7) (channel : BitVec 4) (hv : v < s.voices.length) :
    noteOn v note velocity channel s =
      { s with
        voices := s.voices.set v ⟨true, note, velocity, channel, s.counter + 1⟩
        counter := s.counter + 1
        lvl := s.lvl.setIfInBounds v (levelPlain (vol4 (wide velocity)))
        trace := s.trace ++ writesTrace s.cfg
          (periodWrites s.cfg v (noteToPeriod s.cfg note) ++ [levelWrite s.cfg v (levelPlain (vol4 (wide velocity)))])
        env := s.env.afterWrites s.cfg
          (periodWrites s.cfg v (noteToPeriod s.cfg note) ++
            [levelWrite s.cfg v (levelPlain (vol4 (wide velocity)))]) } := by
  simp only [noteOn, writePeriod_eq, writeLevel_eq, stamp, State.setVoice, State.voice, writesTrace_append,
    afterWrites_append, List.append_assoc]
  simp [hv]

/-- `note_on` at any index: its register writes, one stamp, and at most the voice table and the shadows (R213). -/
theorem noteOn_effect (v : Nat) (note velocity : BitVec 7) (channel : BitVec 4) :
    ∃ vs,
      noteOn v note velocity channel s =
        { s with
          voices := vs
          counter := s.counter + 1
          lvl := s.lvl.setIfInBounds v (levelPlain (vol4 (wide velocity)))
          trace := s.trace ++ writesTrace s.cfg
            (periodWrites s.cfg v (noteToPeriod s.cfg note) ++ [levelWrite s.cfg v (levelPlain (vol4 (wide velocity)))])
          env := s.env.afterWrites s.cfg
            (periodWrites s.cfg v (noteToPeriod s.cfg note) ++
              [levelWrite s.cfg v (levelPlain (vol4 (wide velocity)))]) } := by
  refine ⟨(noteOn v note velocity channel s).voices, ?_⟩
  simp only [noteOn, writePeriod_eq, writeLevel_eq, stamp, State.setVoice, writesTrace_append, afterWrites_append,
    List.append_assoc]

theorem setVolume_eq (v : Nat) (value : Byte) :
    setVolume v value s =
      { s with
        lvl := s.lvl.setIfInBounds v (levelKeepMode (s.shadow v) (vol4 value))
        trace := s.trace ++ writesTrace s.cfg [levelWrite s.cfg v (levelKeepMode (s.shadow v) (vol4 value))]
        env := s.env.afterWrites s.cfg [levelWrite s.cfg v (levelKeepMode (s.shadow v) (vol4 value))] } :=
  writeLevel_eq _ _ _

theorem setAttack_eq (v : Nat) (value : Byte) :
    setAttack v value s =
      { s with
        lvl := s.lvl.setIfInBounds v (levelToEnvelope (s.shadow v))
        trace := s.trace ++ writesTrace s.cfg
          (envPeriodWrites s.cfg value ++ [levelWrite s.cfg v (levelToEnvelope (s.shadow v))])
        env := s.env.afterWrites s.cfg
          (envPeriodWrites s.cfg value ++ [levelWrite s.cfg v (levelToEnvelope (s.shadow v))]) } := by
  simp only [setAttack, writeLevel_eq, writeEnvPeriod_eq, writesTrace_append, afterWrites_append, List.append_assoc]

theorem setDecay_eq (v : Nat) (value : Byte) :
    setDecay v value s =
      { s with
        trace := s.trace ++ writesTrace s.cfg
          [shapeWrite s.cfg (if 64 < value.toNat then s.cfg.shapeDecay else s.cfg.shapePlain)]
        env := s.env.afterWrites s.cfg
          [shapeWrite s.cfg (if 64 < value.toNat then s.cfg.shapeDecay else s.cfg.shapePlain)] } := regWrites_eq _ _

theorem setSustain_eq (v : Nat) (value : Byte) :
    setSustain v value s =
      { s with
        lvl := s.lvl.setIfInBounds v (levelPlain (vol4 value))
        trace := s.trace ++ writesTrace s.cfg [levelWrite s.cfg v (levelPlain (vol4 value))]
        env := s.env.afterWrites s.cfg [levelWrite s.cfg v (levelPlain (vol4 value))] } := writeLevel_eq _ _ _

theorem setRelease_eq (v : Nat) (value : Byte) :
    setRelease v value s =
      { s with
        trace := s.trace ++ writesTrace s.cfg (envPeriodWrites s.cfg value)
        env := s.env.afterWrites s.cfg (envPeriodWrites s.cfg value) } := regWrites_eq _ _

/-- The `RegWrite`s of `set_preset`: one, or none for a program beyond the table (R233). -/
theorem setPreset_eq (program : Byte) :
    setPreset program s =
      { s with
        trace := s.trace ++ writesTrace s.cfg ((s.cfg.presetShape[program.toNat]?).map (shapeWrite s.cfg)).toList
        env := s.env.afterWrites s.cfg ((s.cfg.presetShape[program.toNat]?).map (shapeWrite s.cfg)).toList } := by
  unfold setPreset
  split
  · next h => rw [h]; exact regWrites_eq _ _
  · next h => rw [h]; simp [writesTrace, Env.afterWrites]

/-! ### The two loops over the voices -/

/-- `all_off` up to voice `k`: each of those voices is inactive with shadow 0, one level write each (R212). -/
theorem allOff_upTo (k : Nat) :
    ∃ vs lv,
      (List.range k).foldl (fun s v => noteOff v s) s =
        { s with
          voices := vs
          lvl := lv
          trace := s.trace ++ writesTrace s.cfg ((List.range k).map fun v => levelWrite s.cfg v 0)
          env := s.env.afterWrites s.cfg ((List.range k).map fun v => levelWrite s.cfg v 0) } ∧
      vs = s.voices.mapIdx (fun i x => if i < k then { x with active := false } else x) ∧
      lv = s.lvl.mapIdx (fun i x => if i < k then 0 else x) := by
  induction k with
  | zero => exact ⟨s.voices, s.lvl, by simp [writesTrace, Env.afterWrites], by apply List.ext_getElem? ; simp, by ext i hi; simp⟩
  | succ k ih =>
    obtain ⟨vs, lv, h, hvs, hlv⟩ := ih
    refine ⟨_, _, ?_, rfl, rfl⟩
    rw [List.range_succ, List.foldl_append, h]
    simp only [List.foldl_cons, List.foldl_nil, noteOff_eq, List.map_append, List.map_cons, List.map_nil,
      writesTrace_append, afterWrites_append, List.append_assoc]
    have e1 : vs.set k { (vs[k]?).getD Voice.empty with active := false } =
        s.voices.mapIdx (fun i x => if i < k + 1 then { x with active := false } else x) := by
      subst hvs
      apply List.ext_getElem?
      intro i
      by_cases hik : i = k
      · subst hik
        by_cases hl : i < s.voices.length <;> simp [hl]
      · rw [List.getElem?_set_ne (Ne.symm hik)]
        have : i ≤ k ↔ i < k := by omega
        simp [this]
    have e2 : lv.setIfInBounds k 0 = s.lvl.mapIdx (fun i x => if i < k + 1 then 0 else x) := by
      subst hlv
      apply Vector.ext
      intro i hi
      by_cases hik : i = k
      · subst hik; simp
      · have : i ≤ k ↔ i < k := by omega
        simp [Ne.symm hik, this]
    simp only [State.voice, e1, e2]

/-- `all_off()` (R212). -/
theorem allOff_eq :
    allOff s =
      { s with
        voices := s.voices.mapIdx (fun i x => if i < s.cfg.n then { x with active := false } else x)
        lvl := s.lvl.mapIdx (fun i x => if i < s.cfg.n then 0 else x)
        trace := s.trace ++ writesTrace s.cfg ((List.range s.cfg.n).map fun v => levelWrite s.cfg v 0)
        env := s.env.afterWrites s.cfg ((List.range s.cfg.n).map fun v => levelWrite s.cfg v 0) } := by
  obtain ⟨vs, lv, h, hvs, hlv⟩ := allOff_upTo s s.cfg.n
  subst hvs hlv
  exact h

/-- `panic()` (R234). -/
theorem driverPanic_eq :
    driverPanic s =
      { s with
        voices := s.voices.mapIdx (fun i x => if i < s.cfg.n then { x with active := false } else x)
        lvl := s.lvl.mapIdx (fun i x => if i < s.cfg.n then 0 else x)
        trace := s.trace ++ writesTrace s.cfg
          (((List.range s.cfg.n).map fun v => levelWrite s.cfg v 0) ++ [(s.cfg.mixer, s.cfg.mixerOff)])
        env := s.env.afterWrites s.cfg
          (((List.range s.cfg.n).map fun v => levelWrite s.cfg v 0) ++ [(s.cfg.mixer, s.cfg.mixerOff)]) } := by
  simp only [driverPanic, regWrites_eq, allOff_eq, writesTrace_append, afterWrites_append, List.append_assoc]

theorem bendVoice_eq (value : Int) (v : Nat) :
    bendVoice value v s =
      { s with
        trace := s.trace ++ writesTrace s.cfg
          (if (s.voice v).active then
            periodWrites s.cfg v (bentPeriod s.cfg (noteToPeriod s.cfg (s.voice v).note) value) else [])
        env := s.env.afterWrites s.cfg
          (if (s.voice v).active then
            periodWrites s.cfg v (bentPeriod s.cfg (noteToPeriod s.cfg (s.voice v).note) value) else []) } := by
  unfold bendVoice
  split
  · exact writePeriod_eq _ _ _
  · simp [writesTrace, Env.afterWrites]

/-- `set_pitch_bend(value)`: the writes of every active voice, ascending, and nothing else (R230). -/
theorem setPitchBend_eq (value : Int) :
    setPitchBend value s =
      { s with
        trace := s.trace ++ writesTrace s.cfg (bendWrites value s)
        env := s.env.afterWrites s.cfg (bendWrites value s) } := by
  have key : ∀ l : List Nat, l.foldl (fun s v => bendVoice value v s) s =
      { s with
        trace := s.trace ++ writesTrace s.cfg (l.flatMap fun v =>
          if (s.voice v).active then
            periodWrites s.cfg v (bentPeriod s.cfg (noteToPeriod s.cfg (s.voice v).note) value) else [])
        env := s.env.afterWrites s.cfg (l.flatMap fun v =>
          if (s.voice v).active then
            periodWrites s.cfg v (bentPeriod s.cfg (noteToPeriod s.cfg (s.voice v).note) value) else []) } := by
    intro l
    induction l using List.reverseRecOn with
    | nil => simp [writesTrace, Env.afterWrites]
    | append_singleton l v ih =>
      rw [List.foldl_append, ih]
      simp only [List.foldl_cons, List.foldl_nil, bendVoice_eq, List.flatMap_append, List.flatMap_cons,
        List.flatMap_nil, List.append_nil, writesTrace_append, afterWrites_append, List.append_assoc]
      rfl
  exact key _

end Sys2Proof.Laws
end

