-- ==== Sys2Proof/Laws/Parser.lean ====
section
/-! SUPPORT. The parser's small lemmas: what each class of byte does to `P` (R122 to R134), and that a status byte is never
"no running status". -/

namespace Sys2Proof.Laws

open Sys2Proof.Machine

theorem statusByteOf_ne_zero (command channel : BitVec 4) (h : command ≠ 0) : statusByteOf command channel ≠ 0 := by
  revert command channel; decide

theorem highNibble_statusByteOf (command channel : BitVec 4) : highNibble (statusByteOf command channel) = command := by
  revert command channel; decide

theorem lowNibble_statusByteOf (command channel : BitVec 4) : lowNibble (statusByteOf command channel) = channel := by
  revert command channel; decide

theorem statusByteOf_nibbles (b : Byte) : statusByteOf (highNibble b) (lowNibble b) = b := by
  revert b; decide

theorem dataField_dataByteOf (d : BitVec 7) : dataField (dataByteOf d) = d := by
  revert d; decide

theorem isData_dataByteOf (d : BitVec 7) : isData (dataByteOf d) = true := by
  revert d; decide

theorem dataByteOf_dataField (b : Byte) (h : isData b = true) : dataByteOf (dataField b) = b := by
  revert b; decide

theorem parse_realTime (p : Parser) (b : Byte) (h : 0xF8 ≤ b.toNat) : parse p b = (p, none) := by
  simp [parse, h]

theorem parse_systemCommon (p : Parser) (b : Byte) (h : 0xF0 ≤ b.toNat) (h' : b.toNat < 0xF8) :
    parse p b = (Parser.reset, none) := by
  simp [parse, h, h']

theorem parse_status (p : Parser) (b : Byte) (h : b.toNat < 0xF0) (hs : isStatus b = true) :
    parse p b = (statusParser (highNibble b) (lowNibble b), none) := by
  rw [parse, if_neg (by omega), if_neg (by omega), if_pos hs]

theorem parse_data (p : Parser) (b : Byte) (hd : isData b = true) : parse p b = parseData p (dataField b) := by
  have key : ∀ b : Byte, isData b = true → b.toNat < 0xF0 ∧ isStatus b = false := by decide
  obtain ⟨h, hs⟩ := key b hd
  have hs' : ¬isStatus b = true := by simp [hs]
  rw [parse, if_neg (by omega), if_neg (by omega), if_neg hs']

theorem parse_dataByteOf (p : Parser) (d : BitVec 7) : parse p (dataByteOf d) = parseData p d := by
  rw [parse_data p _ (isData_dataByteOf d), dataField_dataByteOf]

/-- A data byte keeps the running status, the channel, the command and the expected count (R134, R140). -/
theorem parseData_keeps (p : Parser) (d : BitVec 7) :
    (parseData p d).1.rs = p.rs ∧ (parseData p d).1.channel = p.channel ∧ (parseData p d).1.command = p.command ∧
      (parseData p d).1.expected = p.expected := by
  unfold parseData accumulate store
  split_ifs <;> simp

end Sys2Proof.Laws
end

