-- ==== Sys2Proof/Laws/Router.lean ====
section
/-! SUPPORT. What the Dispatcher does with an Event, said once: it performs the Event's register writes (`eventWrites`),
moves the voice table, the counter and the shadows, and changes nothing else (R170 to R179). -/

namespace Sys2Proof.Laws

open Sys2Proof.Machine

variable (s : State)

/-- A release, when a voice sounds the note: `note_off` of it (R173). -/
theorem routeNoteOff_found (note : BitVec 7) (channel : BitVec 4) (v : Nat) (h : findByNote note channel s = some v) :
    routeNoteOff note channel s = noteOff v s := by
  simp [routeNoteOff, h]

theorem routeNoteOff_absent (note : BitVec 7) (channel : BitVec 4) (h : findByNote note channel s = none) :
    routeNoteOff note channel s = s := by
  simp [routeNoteOff, h]

/-- A NoteOn for a note already sounding: the same voice, one stamp (R171). -/
theorem routeNoteOn_retrigger (note velocity : BitVec 7) (channel : BitVec 4) (v : Nat)
    (h : findByNote note channel s = some v) :
    routeNoteOn note velocity channel s =
      { s with
        voices := s.voices.set v ⟨true, note, velocity, channel, s.counter + 1⟩
        counter := s.counter + 1
        lvl := s.lvl.setIfInBounds v (levelPlain (vol4 (wide velocity)))
        trace := s.trace ++ writesTrace s.cfg
          (periodWrites s.cfg v (noteToPeriod s.cfg note) ++ [levelWrite s.cfg v (levelPlain (vol4 (wide velocity)))])
        env := s.env.afterWrites s.cfg
          (periodWrites s.cfg v (noteToPeriod s.cfg note) ++
            [levelWrite s.cfg v (levelPlain (vol4 (wide velocity)))]) } := by
  simp only [routeNoteOn, h]
  exact noteOn_eq s v note velocity channel (findByNote_some s note channel v h).1

/-- A NoteOn for a note not sounding: the voice `allocate` returns, two stamps (R171, C1). -/
theorem routeNoteOn_allocate (note velocity : BitVec 7) (channel : BitVec 4) (hv : s.voices ≠ [])
    (h : findByNote note channel s = none) :
    routeNoteOn note velocity channel s =
      { s with
        voices := s.voices.set (allocIndex s) ⟨true, note, velocity, channel, s.counter + 2⟩
        counter := s.counter + 2
        lvl := s.lvl.setIfInBounds (allocIndex s) (levelPlain (vol4 (wide velocity)))
        trace := s.trace ++ writesTrace s.cfg
          (periodWrites s.cfg (allocIndex s) (noteToPeriod s.cfg note) ++
            [levelWrite s.cfg (allocIndex s) (levelPlain (vol4 (wide velocity)))])
        env := s.env.afterWrites s.cfg
          (periodWrites s.cfg (allocIndex s) (noteToPeriod s.cfg note) ++
            [levelWrite s.cfg (allocIndex s) (levelPlain (vol4 (wide velocity)))]) } := by
  have hlt := allocIndex_lt s hv
  simp only [routeNoteOn, h, allocate_eq s note velocity channel hv]
  rw [noteOn_eq _ _ _ _ _ (by simpa using hlt)]
  simp

/-- What any Event does at an active PSG: its register writes, and the voice table, the counter
and the shadows; nothing else changes (R171 to R179). -/
theorem routePsg_effect (e : Event) :
    ∃ vs c lv,
      routePsg e s =
        { s with
          voices := vs
          counter := c
          lvl := lv
          trace := s.trace ++ writesTrace s.cfg (psgWrites e s)
          env := s.env.afterWrites s.cfg (psgWrites e s) } := by
  have hoff : ∀ note channel, ∃ vs c lv, routeNoteOff note channel s =
      { s with
        voices := vs
        counter := c
        lvl := lv
        trace := s.trace ++ writesTrace s.cfg (releaseWrites note channel s)
        env := s.env.afterWrites s.cfg (releaseWrites note channel s) } := by
    intro note channel
    cases h : findByNote note channel s with
    | some v => exact ⟨_, _, _, by rw [routeNoteOff_found s _ _ _ h, noteOff_eq]; simp only [releaseWrites, h]; rfl⟩
    | none =>
      exact ⟨s.voices, s.counter, s.lvl, by
        rw [routeNoteOff_absent s _ _ h]; simp [releaseWrites, h, writesTrace, Env.afterWrites]⟩
  cases e with
  | noteOn note velocity channel =>
    simp only [routePsg, psgWrites]
    split
    · exact hoff note channel
    · cases h : findByNote note channel s with
      | some v => exact ⟨_, _, _, by rw [routeNoteOn_retrigger s _ _ _ v h]; simp only [noteOnVoice, h, Option.getD_some]; rfl⟩
      | none =>
        obtain ⟨vs, ha⟩ := allocate_effect s note velocity channel
        obtain ⟨vs', hn⟩ := noteOn_effect { s with voices := vs, counter := s.counter + 1 } (allocIndex s) note velocity
          channel
        exact ⟨vs', _, _, by simp only [routeNoteOn, h, ha, hn, noteOnVoice, Option.getD_none]; rfl⟩
  | noteOff note channel => exact hoff note channel
  | controlChange controller value channel =>
    have keep : ∃ vs c lv, s =
        { s with
          voices := vs
          counter := c
          lvl := lv
          trace := s.trace ++ writesTrace s.cfg []
          env := s.env.afterWrites s.cfg [] } :=
      ⟨s.voices, s.counter, s.lvl, by simp [writesTrace, Env.afterWrites]⟩
    simp only [routePsg, psgWrites, routeControl, onFirstActive]
    cases firstActive s with
    | none => cases ccAction s.cfg controller <;> exact keep
    | some v =>
      cases ccAction s.cfg controller with
      | none | vibrato | tremolo | modulation => exact keep
      | volume => exact ⟨_, _, _, setVolume_eq _ _ _⟩
      | attack => exact ⟨_, _, _, setAttack_eq _ _ _⟩
      | decay => exact ⟨_, _, _, setDecay_eq _ _ _⟩
      | sustain => exact ⟨_, _, _, setSustain_eq _ _ _⟩
      | release => exact ⟨_, _, _, setRelease_eq _ _ _⟩
  | programChange program channel =>
    refine ⟨s.voices, s.counter, s.lvl, ?_⟩
    have hw : (wide program).toNat = program.toNat := by simp [wide]; omega
    simp only [routePsg, psgWrites, setPreset_eq, hw]
  | pitchBend value channel => exact ⟨s.voices, s.counter, s.lvl, setPitchBend_eq s value⟩

/-- What any Event does: the same, and nothing at all with no active backend (R170). -/
theorem dispatch_effect (e : Event) :
    ∃ vs c lv,
      dispatch e s =
        { s with
          voices := vs
          counter := c
          lvl := lv
          trace := s.trace ++ writesTrace s.cfg (eventWrites e s)
          env := s.env.afterWrites s.cfg (eventWrites e s) } := by
  cases h : s.active with
  | none =>
    refine ⟨s.voices, s.counter, s.lvl, ?_⟩
    have hw : eventWrites e s = [] := by simp [eventWrites, h]
    simp [dispatch, h, hw, writesTrace, Env.afterWrites]
    simp [← h]
  | some b =>
    obtain ⟨vs, c, lv, hr⟩ := routePsg_effect s e
    refine ⟨vs, c, lv, ?_⟩
    cases b
    simp only [dispatch, h, hr, eventWrites]
    simp

end Sys2Proof.Laws
end

