-- ==== Sys2Proof/Laws/Exec.lean ====
section
/-! SUPPORT. The meaning of each row as an equation, what one byte can do, and what one step can do, said once. -/

namespace Sys2Proof.Laws

open Sys2Proof.Machine

variable (s : State)

/-! ### The rows, over the shared operations -/

theorem exec_data (d : BitVec 7) : exec (.data d) s = .next (dataByte d s) := rfl
theorem exec_stNoteOff (c : BitVec 4) : exec (.stNoteOff c) s = .next (statusByte 0x8 c s) := rfl
theorem exec_stNoteOn (c : BitVec 4) : exec (.stNoteOn c) s = .next (statusByte 0x9 c s) := rfl
theorem exec_stPolyp (c : BitVec 4) : exec (.stPolyp c) s = .next (statusByte 0xA c s) := rfl
theorem exec_stCc (c : BitVec 4) : exec (.stCc c) s = .next (statusByte 0xB c s) := rfl
theorem exec_stPc (c : BitVec 4) : exec (.stPc c) s = .next (statusByte 0xC c s) := rfl
theorem exec_stChanp (c : BitVec 4) : exec (.stChanp c) s = .next (statusByte 0xD c s) := rfl
theorem exec_stPb (c : BitVec 4) : exec (.stPb c) s = .next (statusByte 0xE c s) := rfl
theorem exec_syscom (low : BitVec 3) : exec (.syscom low) s = .next (systemCommon s) := rfl
theorem exec_rt (low : BitVec 3) : exec (.rt low) s = .next (realTime s) := rfl
theorem exec_noteOff (c : BitVec 4) (n v : BitVec 7) : exec (.noteOff c n v) s = .next (dataByte v (dataByte n (statusByte 0x8 c s))) := rfl
theorem exec_noteOn (c : BitVec 4) (n v : BitVec 7) : exec (.noteOn c n v) s = .next (dataByte v (dataByte n (statusByte 0x9 c s))) := rfl
theorem exec_cc (c : BitVec 4) (k v : BitVec 7) : exec (.cc c k v) s = .next (dataByte v (dataByte k (statusByte 0xB c s))) := rfl
theorem exec_pc (c : BitVec 4) (p : BitVec 7) : exec (.pc c p) s = .next (dataByte p (statusByte 0xC c s)) := rfl
theorem exec_pb (c : BitVec 4) (l m : BitVec 7) : exec (.pb c l m) s = .next (dataByte m (dataByte l (statusByte 0xE c s))) := rfl
theorem exec_polyp (c : BitVec 4) : exec (.polyp c) s = .next (statusByte 0xA c s) := rfl
theorem exec_chanp (c : BitVec 4) : exec (.chanp c) s = .next (statusByte 0xD c s) := rfl
theorem exec_rs2 (x y : BitVec 7) : exec (.rs2 x y) s = .next (dataByte y (dataByte x s)) := rfl
theorem exec_rs1 (x : BitVec 7) : exec (.rs1 x) s = .next (dataByte x s) := rfl
theorem exec_sysF0 : exec .sysF0 s = .next (systemCommon s) := rfl
theorem exec_sysF1 : exec .sysF1 s = .next (systemCommon s) := rfl
theorem exec_sysF2 : exec .sysF2 s = .next (systemCommon s) := rfl
theorem exec_sysF3 : exec .sysF3 s = .next (systemCommon s) := rfl
theorem exec_sysF4 : exec .sysF4 s = .next (systemCommon s) := rfl
theorem exec_sysF5 : exec .sysF5 s = .next (systemCommon s) := rfl
theorem exec_sysF6 : exec .sysF6 s = .next (systemCommon s) := rfl
theorem exec_sysF7 : exec .sysF7 s = .next (systemCommon s) := rfl
theorem exec_rtF8 : exec .rtF8 s = .next (realTime s) := rfl
theorem exec_rtF9 : exec .rtF9 s = .next (realTime s) := rfl
theorem exec_rtFA : exec .rtFA s = .next (realTime s) := rfl
theorem exec_rtFB : exec .rtFB s = .next (realTime s) := rfl
theorem exec_rtFC : exec .rtFC s = .next (realTime s) := rfl
theorem exec_rtFD : exec .rtFD s = .next (realTime s) := rfl
theorem exec_rtFE : exec .rtFE s = .next (realTime s) := rfl
theorem exec_rtFF : exec .rtFF s = .next (realTime s) := rfl

/-! ### One byte -/

@[simp] theorem statusByte_eq (command channel : BitVec 4) :
    statusByte command channel s = { s with parser := statusParser command channel } := rfl

@[simp] theorem systemCommon_eq : systemCommon s = { s with parser := Parser.reset } := rfl

@[simp] theorem realTime_eq : realTime s = s := rfl

/-- The writes of an Event do not depend on `P` or on the Events so far. -/
theorem eventWrites_congr (e : Event) (p : Parser) (es : List Event) :
    eventWrites e { s with parser := p, events := es } = eventWrites e s := rfl

/-- What a data byte can do: `P`, at most one Event, that Event's register writes, the voice
table, the counter and the shadows (R120, R132 to R139). -/
theorem dataByte_effect (d : BitVec 7) :
    ∃ vs c lv,
      dataByte d s =
        { s with
          parser := (parseData s.parser d).1
          events := s.events ++ (parseData s.parser d).2.toList
          voices := vs
          counter := c
          lvl := lv
          trace := s.trace ++ writesTrace s.cfg (dataWrites d s)
          env := s.env.afterWrites s.cfg (dataWrites d s) } := by
  unfold dataByte dataWrites
  cases h : (parseData s.parser d).2 with
  | none =>
    exact ⟨s.voices, s.counter, s.lvl, by simp [deliver, State.setParser, writesTrace, Env.afterWrites]⟩
  | some e =>
    obtain ⟨vs, c, lv, hd⟩ := dispatch_effect
      { s with parser := (parseData s.parser d).1, events := s.events ++ [e] } e
    refine ⟨vs, c, lv, ?_⟩
    simp only [deliver, emit, State.addEvent, State.setParser]
    rw [hd]
    simp [eventWrites_congr]

/-! ### Detection as the command runs it -/

/-- Recording a run's answer in a detected set that was cleared (R182). -/
theorem record_eq (d : Bool × State) (h : d.2.detected = 0) :
    (if d.1 then d.2.addDetected .psg else d.2) = { d.2 with detected := if d.1 then 1 else 0 } := by
  obtain ⟨b, t⟩ := d
  have hor : (0#1 ||| BitVec.twoPow 1 0) = 1#1 := by decide
  simp only at h
  cases b
  · simp [← h]
  · simp [State.addDetected, Backend.bit, h, hor]

/-- `startup_detect()`: one detection run of the PSG, and its answer recorded (R182). -/
theorem startupDetect_eq :
    startupDetect s =
      { (detectPsg (s.setDetected 0)).2 with detected := if (detectPsg (s.setDetected 0)).1 then 1 else 0 } := by
  refine record_eq (detectPsg (s.setDetected 0)) ?_
  obtain ⟨body, e, _, h⟩ := detectPsg_effect (s.setDetected 0)
  rw [h]; rfl

/-- The command `Detect`: one run, and its answer recorded in the detected set and in the results (R182, R185). -/
theorem execCmd_detect :
    execCmd .detect s = .next
      { (detectPsg s).2 with
        detected := if (detectPsg s).1 then 1 else 0
        results := (detectPsg s).2.results ++ [some (detectPsg s).1] } := by
  have h : execCmd .detect s = .next ((startupDetect s).addResult (some ((startupDetect s).isDetected .psg))) := rfl
  rw [h, startupDetect_eq, detectPsg_setDetected]
  cases (detectPsg s).1 <;> simp [State.addResult, State.isDetected, State.setDetected, Backend.bit]

/-! ### One turn, one step -/

/-- A turn on a unit takes its first byte and leaves the others pending (R187). -/
theorem turn_input {u : InputUnit} {b : Byte} {bs : List Byte} {rest : List Item} (h : s.input = .input u :: rest)
    (hu : u.bytes = b :: bs) : turn s = exec (decodeByte b) (s.setInput (byteItems bs ++ rest)) := by
  simp [turn, h, takeItem, takeFirstByte, hu, State.setInput]

/-- A turn on a command takes it (R185, R187). -/
theorem turn_cmd {c : HostCmd} {rest : List Item} (h : s.input = .cmd c :: rest) :
    turn s = execCmd c (s.setInput rest) := by
  simp [turn, h, takeItem]

/-- A turn with nothing pending changes nothing (R7). -/
theorem turn_idle (h : s.input = []) : turn s = .next s := by
  simp [turn, h]

/-- A whole message pending first is run as its instruction. -/
theorem step_message {bs : List Byte} {i : Instr} {rest : List Item} (h : s.input = .input (.message bs) :: rest)
    (hd : decodeMessage bs = .ok i) : step s = exec i (s.setInput rest) := by
  simp [step, runNext, pendingMessage, h, hd]

/-- Every other step is one turn. -/
theorem step_turn (h : ∀ bs i rest, s.input = .input (.message bs) :: rest → decodeMessage bs ≠ .ok i) :
    step s = turn s := by
  have hp : pendingMessage s = none := by
    unfold pendingMessage
    split
    · next bs rest hi =>
      split
      · next i hd => exact absurd hd (h bs i rest hi)
      · rfl
    · rfl
  simp [step, runNext, hp]

/-- What one step can do: nothing, take a command, run an instruction (a unit's own, or that of the first byte of a run
that is no message, the others left pending), or remove a run of no bytes (R7, R187). -/
theorem step_cases {t : State} (h : step s = .next t) :
    (s.input = [] ∧ t = s) ∨
    (∃ c rest, s.input = .cmd c :: rest ∧ execCmd c (s.setInput rest) = .next t) ∨
    (∃ u i rest q, s.input = .input u :: rest ∧
      (q = rest ∧ decode u = .ok i ∨ ∃ b bs, u = .message (b :: bs) ∧ q = byteItems bs ++ rest ∧ i = decodeByte b) ∧
      exec i (s.setInput q) = .next t) ∨
    (∃ rest, s.input = .input (.message []) :: rest ∧ t = s.setInput rest) := by
  cases hi : s.input with
  | nil =>
    rw [step_turn s (by simp [hi]), turn_idle s hi] at h
    injection h with h
    exact .inl ⟨rfl, h.symm⟩
  | cons it rest =>
    cases it with
    | cmd c =>
      rw [step_turn s (by simp [hi]), turn_cmd s hi] at h
      exact .inr (.inl ⟨c, rest, rfl, h⟩)
    | input u =>
      cases u with
      | byte b =>
        rw [step_turn s (by simp [hi]), turn_input s hi (bs := []) rfl] at h
        exact .inr (.inr (.inl ⟨.byte b, decodeByte b, rest, rest, rfl, .inl ⟨rfl, rfl⟩, h⟩))
      | message bs =>
        cases hd : decodeMessage bs with
        | ok i =>
          rw [step_message s hi hd] at h
          exact .inr (.inr (.inl ⟨.message bs, i, rest, rest, rfl, .inl ⟨rfl, hd⟩, h⟩))
        | error e =>
          have hn : step s = turn s := step_turn s (by
            intro bs' i rest' hi' hd'
            rw [hi] at hi'
            cases hi'
            rw [hd] at hd'
            cases hd')
          rw [hn] at h
          cases bs with
          | nil =>
            simp only [turn, hi, takeItem, InputUnit.bytes, takeFirstByte] at h
            injection h with h
            exact .inr (.inr (.inr ⟨rest, rfl, h.symm⟩))
          | cons b bs =>
            rw [turn_input s hi rfl] at h
            exact .inr (.inr (.inl ⟨_, decodeByte b, rest, _, rfl, .inr ⟨b, bs, rfl, rfl, rfl⟩, h⟩))

end Sys2Proof.Laws
end

