-- ==== Sys2Proof/Laws/PerInstr.lean ====
section
/-! SUPPORT. Statements made once per instruction. `OneMessage`: what an instruction is written as is one message at most,
one to three bytes of which all but the first are data bytes (R95, R108). -/

namespace Sys2Proof.Laws

open Sys2Proof.Machine

/-- The bytes of an instruction: one to three, and every byte after the first is a data byte (R95, R108). -/
def OneMessage.Statement (i : Instr) : Prop :=
  1 ≤ (encodeBytes i).length ∧ (encodeBytes i).length ≤ 3 ∧ ∀ b ∈ (encodeBytes i).tail, isData b = true

theorem OneMessage.data (d : BitVec 7) : OneMessage.Statement (.data d) := by
  simp [OneMessage.Statement, encodeBytes, encode, InputUnit.bytes]

theorem OneMessage.stNoteOff (c : BitVec 4) : OneMessage.Statement (.stNoteOff c) := by
  simp [OneMessage.Statement, encodeBytes, encode, InputUnit.bytes]

theorem OneMessage.stNoteOn (c : BitVec 4) : OneMessage.Statement (.stNoteOn c) := by
  simp [OneMessage.Statement, encodeBytes, encode, InputUnit.bytes]

theorem OneMessage.stPolyp (c : BitVec 4) : OneMessage.Statement (.stPolyp c) := by
  simp [OneMessage.Statement, encodeBytes, encode, InputUnit.bytes]

theorem OneMessage.stCc (c : BitVec 4) : OneMessage.Statement (.stCc c) := by
  simp [OneMessage.Statement, encodeBytes, encode, InputUnit.bytes]

theorem OneMessage.stPc (c : BitVec 4) : OneMessage.Statement (.stPc c) := by
  simp [OneMessage.Statement, encodeBytes, encode, InputUnit.bytes]

theorem OneMessage.stChanp (c : BitVec 4) : OneMessage.Statement (.stChanp c) := by
  simp [OneMessage.Statement, encodeBytes, encode, InputUnit.bytes]

theorem OneMessage.stPb (c : BitVec 4) : OneMessage.Statement (.stPb c) := by
  simp [OneMessage.Statement, encodeBytes, encode, InputUnit.bytes]

theorem OneMessage.syscom (low : BitVec 3) : OneMessage.Statement (.syscom low) := by
  simp [OneMessage.Statement, encodeBytes, encode, InputUnit.bytes]

theorem OneMessage.rt (low : BitVec 3) : OneMessage.Statement (.rt low) := by
  simp [OneMessage.Statement, encodeBytes, encode, InputUnit.bytes]

theorem OneMessage.noteOff (c : BitVec 4) (x y : BitVec 7) : OneMessage.Statement (.noteOff c x y) := by
  simp [OneMessage.Statement, encodeBytes, encode, InputUnit.bytes, isData_dataByteOf]

theorem OneMessage.noteOn (c : BitVec 4) (x y : BitVec 7) : OneMessage.Statement (.noteOn c x y) := by
  simp [OneMessage.Statement, encodeBytes, encode, InputUnit.bytes, isData_dataByteOf]

theorem OneMessage.cc (c : BitVec 4) (x y : BitVec 7) : OneMessage.Statement (.cc c x y) := by
  simp [OneMessage.Statement, encodeBytes, encode, InputUnit.bytes, isData_dataByteOf]

theorem OneMessage.pc (c : BitVec 4) (p : BitVec 7) : OneMessage.Statement (.pc c p) := by
  simp [OneMessage.Statement, encodeBytes, encode, InputUnit.bytes, isData_dataByteOf]

theorem OneMessage.pb (c : BitVec 4) (x y : BitVec 7) : OneMessage.Statement (.pb c x y) := by
  simp [OneMessage.Statement, encodeBytes, encode, InputUnit.bytes, isData_dataByteOf]

theorem OneMessage.polyp (c : BitVec 4) : OneMessage.Statement (.polyp c) := by
  simp [OneMessage.Statement, encodeBytes, encode, InputUnit.bytes]

theorem OneMessage.chanp (c : BitVec 4) : OneMessage.Statement (.chanp c) := by
  simp [OneMessage.Statement, encodeBytes, encode, InputUnit.bytes]

theorem OneMessage.rs2 (x y : BitVec 7) : OneMessage.Statement (.rs2 x y) := by
  simp [OneMessage.Statement, encodeBytes, encode, InputUnit.bytes, isData_dataByteOf]

theorem OneMessage.rs1 (x : BitVec 7) : OneMessage.Statement (.rs1 x) := by
  simp [OneMessage.Statement, encodeBytes, encode, InputUnit.bytes]

theorem OneMessage.sysF0 : OneMessage.Statement .sysF0 := by
  simp [OneMessage.Statement, encodeBytes, encode, InputUnit.bytes]

theorem OneMessage.sysF1 : OneMessage.Statement .sysF1 := by
  simp [OneMessage.Statement, encodeBytes, encode, InputUnit.bytes]

theorem OneMessage.sysF2 : OneMessage.Statement .sysF2 := by
  simp [OneMessage.Statement, encodeBytes, encode, InputUnit.bytes]

theorem OneMessage.sysF3 : OneMessage.Statement .sysF3 := by
  simp [OneMessage.Statement, encodeBytes, encode, InputUnit.bytes]

theorem OneMessage.sysF4 : OneMessage.Statement .sysF4 := by
  simp [OneMessage.Statement, encodeBytes, encode, InputUnit.bytes]

theorem OneMessage.sysF5 : OneMessage.Statement .sysF5 := by
  simp [OneMessage.Statement, encodeBytes, encode, InputUnit.bytes]

theorem OneMessage.sysF6 : OneMessage.Statement .sysF6 := by
  simp [OneMessage.Statement, encodeBytes, encode, InputUnit.bytes]

theorem OneMessage.sysF7 : OneMessage.Statement .sysF7 := by
  simp [OneMessage.Statement, encodeBytes, encode, InputUnit.bytes]

theorem OneMessage.rtF8 : OneMessage.Statement .rtF8 := by
  simp [OneMessage.Statement, encodeBytes, encode, InputUnit.bytes]

theorem OneMessage.rtF9 : OneMessage.Statement .rtF9 := by
  simp [OneMessage.Statement, encodeBytes, encode, InputUnit.bytes]

theorem OneMessage.rtFA : OneMessage.Statement .rtFA := by
  simp [OneMessage.Statement, encodeBytes, encode, InputUnit.bytes]

theorem OneMessage.rtFB : OneMessage.Statement .rtFB := by
  simp [OneMessage.Statement, encodeBytes, encode, InputUnit.bytes]

theorem OneMessage.rtFC : OneMessage.Statement .rtFC := by
  simp [OneMessage.Statement, encodeBytes, encode, InputUnit.bytes]

theorem OneMessage.rtFD : OneMessage.Statement .rtFD := by
  simp [OneMessage.Statement, encodeBytes, encode, InputUnit.bytes]

theorem OneMessage.rtFE : OneMessage.Statement .rtFE := by
  simp [OneMessage.Statement, encodeBytes, encode, InputUnit.bytes]

theorem OneMessage.rtFF : OneMessage.Statement .rtFF := by
  simp [OneMessage.Statement, encodeBytes, encode, InputUnit.bytes]

end Sys2Proof.Laws
end

