-- ==== Sys2Proof/Tests/Slice0.lean ====
section
/-! SUPPORT. The model's own tests: an ill-formed configuration or argument for each check, words written out from the
encodings of spec/30_encoding.md, single steps from the vectors of spec/95_test_vectors.md, and for every statement with
hypotheses a state and operands that meet them. -/

namespace Sys2Proof.Tests

open Sys2Proof.Machine Sys2Proof.Laws Host

set_option maxRecDepth 20000

/-! ### What WellFormed refuses (R9 to R12, R185) -/

theorem test_p0_valid : Config.p0.valid = true := by decide

theorem test_p0_chipFits : Config.p0.chipFits = true := by decide

theorem test_refuses_noVoices : ConfigError.noVoices ∈ ({ Config.p0 with n := 0 } : Config).errors := by decide

theorem test_refuses_tooManyVoices : ConfigError.tooManyVoices ∈ ({ Config.p0 with n := 4 } : Config).errors := by decide

theorem test_refuses_equalPorts : ConfigError.equalPorts ∈ ({ Config.p0 with addrPort := 0xD0 } : Config).errors := by
  decide

theorem test_refuses_settleNotPositive :
    ConfigError.settleNotPositive ∈ ({ Config.p0 with tSettle := some 0 } : Config).errors := by decide

theorem test_refuses_indicesNotDistinct :
    ConfigError.indicesNotDistinct ∈ ({ Config.p0 with noise := 7 } : Config).errors := by decide

theorem test_refuses_mixerMaskZero :
    ConfigError.mixerMaskZero ∈ ({ Config.p0 with mixerRwMask := 0 } : Config).errors := by decide

theorem test_refuses_levelMaskZero :
    ConfigError.levelMaskZero ∈ ({ Config.p0 with levelRwMask := 0 } : Config).errors := by decide

theorem test_refuses_equalShapes : ConfigError.equalShapes ∈ ({ Config.p0 with shapePlain := 0xE } : Config).errors := by
  decide

theorem test_refuses_tooManyPresets :
    ConfigError.tooManyPresets ∈ ({ Config.p0 with presetShape := List.replicate 129 0 } : Config).errors := by decide

theorem test_refuses_noteRange : ConfigError.noteRange ∈ ({ Config.p0 with noteMax := 128 } : Config).errors := by decide

theorem test_refuses_periodLength : ConfigError.periodLength ∈ ({ Config.p0 with period := [1] } : Config).errors := by
  decide

theorem test_refuses_periodBounds :
    ConfigError.periodBounds ∈ ({ Config.p0 with period := [4096] } : Config).errors ∧
      ConfigError.periodBounds ∈ ({ Config.p0 with period := [0] } : Config).errors := by decide

theorem test_refuses_periodOrder : ConfigError.periodOrder ∈ ({ Config.p0 with period := [29, 31] } : Config).errors := by
  decide

theorem test_refuses_bendKTooSmall :
    ConfigError.bendKTooSmall ∈ ({ Config.p0 with bendK := 8191 } : Config).errors := by decide

theorem test_refuses_ccMapLength : ConfigError.ccMapLength ∈ ({ Config.p0 with ccMap := [] } : Config).errors := by decide

theorem test_refuses_envBytesLength : ConfigError.envBytesLength ∈ ({ Config.p0 with envBytes := [] } : Config).errors := by
  decide

theorem test_refuses_wmask :
    ConfigError.wmask ∈ ({ Config.p0 with psgWmask := Vector.replicate 16 0x0F } : Config).errors := by decide

/-- R185: each argument of an `Op` at its last good value and just past it. -/
theorem test_op_domain :
    BackendOp.wellFormed 3 (.noteOn 2 127 127 15) = true ∧
    BackendOp.wellFormed 3 (.noteOn 3 127 127 15) = false ∧
    BackendOp.wellFormed 3 (.noteOn 2 128 127 15) = false ∧
    BackendOp.wellFormed 3 (.noteOn 2 127 128 15) = false ∧
    BackendOp.wellFormed 3 (.noteOn 2 127 127 16) = false ∧
    BackendOp.wellFormed 3 (.noteOff 3) = false ∧ BackendOp.wellFormed 3 (.setVolume 3 0) = false ∧
    BackendOp.wellFormed 3 (.setAttack 3 0) = false ∧ BackendOp.wellFormed 3 (.setDecay 3 0) = false ∧
    BackendOp.wellFormed 3 (.setSustain 3 0) = false ∧ BackendOp.wellFormed 3 (.setRelease 3 0) = false ∧
    BackendOp.wellFormed 3 (.setPitchBend 8191) = true ∧ BackendOp.wellFormed 3 (.setPitchBend 8192) = false ∧
    BackendOp.wellFormed 3 (.setPitchBend (-8192)) = true ∧ BackendOp.wellFormed 3 (.setPitchBend (-8193)) = false := by
  decide

/-! ### Decoding, from the patterns of R91, R95, R99 and R103 -/

/-- R91, R93: the data row and the seven status rows. -/
theorem test_decode_byte_rows :
    decode (.byte 0b00111100) = .ok (.data 0b0111100) ∧
    decode (.byte 0b10000010) = .ok (.stNoteOff 0b0010) ∧
    decode (.byte 0b10010101) = .ok (.stNoteOn 0b0101) ∧
    decode (.byte 0b10100101) = .ok (.stPolyp 0b0101) ∧
    decode (.byte 0b10111111) = .ok (.stCc 0b1111) ∧
    decode (.byte 0b11000000) = .ok (.stPc 0b0000) ∧
    decode (.byte 0b11011111) = .ok (.stChanp 0b1111) ∧
    decode (.byte 0b11101111) = .ok (.stPb 0b1111) := by decide

/-- R103: the sixteen named system bytes. -/
theorem test_decode_system_rows :
    (List.range 16).map (fun k => decode (.byte (BitVec.ofNat 8 (0xF0 + k)))) =
      [.ok .sysF0, .ok .sysF1, .ok .sysF2, .ok .sysF3, .ok .sysF4, .ok .sysF5, .ok .sysF6, .ok .sysF7, .ok .rtF8,
        .ok .rtF9, .ok .rtFA, .ok .rtFB, .ok .rtFC, .ok .rtFD, .ok .rtFE, .ok .rtFF] := by decide

/-- R95: the message rows. -/
theorem test_decode_messages :
    decode (.message [0b10000010, 0b01000000, 0b01111111]) = .ok (.noteOff 2 64 127) ∧
    decode (.message [0b10010000, 0b00111100, 0b01000000]) = .ok (.noteOn 0 60 64) ∧
    decode (.message [0b10110001, 0b00000111, 0b01010000]) = .ok (.cc 1 7 80) ∧
    decode (.message [0b11000001, 0b00001001]) = .ok (.pc 1 9) ∧
    decode (.message [0b11100011, 0b01111111, 0b00000001]) = .ok (.pb 3 127 1) ∧
    decode (.message [0b10100101]) = .ok (.polyp 5) ∧
    decode (.message [0b11011111]) = .ok (.chanp 15) ∧
    decode (.message [0b11110101]) = .ok (.syscom 0b101) ∧
    decode (.message [0b11111110]) = .ok (.rt 0b110) := by decide

/-- R99: the elided forms. -/
theorem test_decode_elided :
    decode (.message [0b00111100, 0b00000000]) = .ok (.rs2 60 0) ∧ decode (.message [0b01111111]) = .ok (.rs1 127) := by
  decide

/-- R95, R108: units that are no message, each by its name. -/
theorem test_decode_rejects :
    decode (.message []) = .error .noByte ∧
    decode (.message [0x90]) = .error .incomplete ∧
    decode (.message [0x90, 0x3C]) = .error .notAMessage ∧
    decode (.message [0x90, 0x3C, 0x80]) = .error .notAMessage ∧
    decode (.message [0x90, 0x3C, 0x40, 0x3C]) = .error .tooLong := by decide

/-! ### Small states -/

/-- P0 before a present chip whose registers are all zero. -/
def base : State := State.initial Config.p0 (.present ⟨0, Vector.replicate 16 0⟩)

/-- The PSG detected and active, every voice inactive. -/
def idle : State := { base with detected := 1, active := some .psg }

/-- One sounding voice: the end of the stream `90 3C 40` (spec/95, P1). -/
def playing : State :=
  { idle with
    parser := ⟨0x90, 0, 9, 2, 0, 60, 64⟩
    voices := [⟨true, 60, 64, 0, 2⟩, Voice.empty, Voice.empty]
    counter := 2
    lvl := #v[0x08, 0, 0] }

/-- Three sounding voices, the middle one the oldest. -/
def full : State :=
  { idle with
    voices := [⟨true, 60, 64, 0, 8⟩, ⟨true, 62, 64, 0, 4⟩, ⟨true, 64, 64, 0, 6⟩]
    counter := 8 }

/-- `s` with `P` as given. -/
def withParser (p : Parser) (s : State) : State := { s with parser := p }

/-- What a step gives, read by `f`. -/
def peek {α : Type} (f : State → α) (o : Outcome State Fault Refusal) : Option α :=
  match o with
  | .next s => some (f s)
  | .fault _ => none
  | .refused _ => none

/-- The trace of `RegWrite`s under the ports of P0 (spec/95, "Conventions"). -/
def rw (ws : List (Byte × Byte)) : List BusAction := writesTrace Config.p0 ws

/-! ### Single steps, from spec/95 -/

/-- A1, A7: data bytes with no running status, and under one that expects none. -/
theorem test_data_dropped :
    peek State.parser (exec (.data 0x7F) base) = some Parser.reset ∧
    peek State.parser (exec (.data 0x3C) (withParser ⟨0xA5, 5, 0xA, 0, 0, 0, 0⟩ base)) =
      some ⟨0xA5, 5, 0xA, 0, 0, 0, 0⟩ := by decide

/-- A24, A19, A21: a second data byte completes its message. -/
theorem test_data_completes :
    peek (fun s => (s.parser, s.events)) (exec (.data 0x7F) (withParser ⟨0x82, 2, 8, 2, 1, 0x40, 0⟩ base)) =
      some (⟨0x82, 2, 8, 2, 0, 0x40, 0x7F⟩, [.noteOff 64 2]) ∧
    peek State.events (exec (.rs1 0x40) (withParser ⟨0xE3, 3, 0xE, 2, 1, 0, 0⟩ base)) = some [.pitchBend 0 3] ∧
    peek State.events (exec (.data 0x00) (withParser ⟨0xE3, 3, 0xE, 2, 1, 0, 0⟩ base)) = some [.pitchBend (-8192) 3] := by
  decide

/-- A4, A5, A6, A8, A9, A12, A13: the status rows. -/
theorem test_status_bytes :
    peek State.parser (exec (.stNoteOff 0xF) base) = some ⟨0x8F, 0xF, 8, 2, 0, 0, 0⟩ ∧
    peek State.parser (exec (.stNoteOn 0xA) (withParser ⟨0x80, 0, 8, 2, 1, 0x40, 0⟩ base)) =
      some ⟨0x9A, 0xA, 9, 2, 0, 0, 0⟩ ∧
    peek State.parser (exec (.stPolyp 5) base) = some ⟨0xA5, 5, 0xA, 0, 0, 0, 0⟩ ∧
    peek State.parser (exec (.stCc 0xF) base) = some ⟨0xBF, 0xF, 0xB, 2, 0, 0, 0⟩ ∧
    peek State.parser (exec (.stPc 0) base) = some ⟨0xC0, 0, 0xC, 1, 0, 0, 0⟩ ∧
    peek State.parser (exec (.stChanp 0xF) base) = some ⟨0xDF, 0xF, 0xD, 0, 0, 0, 0⟩ ∧
    peek State.parser (exec (.stPb 0xF) base) = some ⟨0xEF, 0xF, 0xE, 2, 0, 0, 0⟩ := by decide

/-- A14 to A17: the ends of the two system ranges. -/
theorem test_system_bytes :
    peek State.parser (exec .sysF0 playing) = some Parser.reset ∧
    peek State.parser (exec .sysF7 playing) = some Parser.reset ∧
    peek State.parser (exec .rtF8 playing) = some playing.parser ∧
    peek State.parser (exec .rtFF playing) = some playing.parser := by decide

/-- R171's example: two stamps, period before level. -/
theorem test_noteOn :
    peek (fun s => (s.trace, s.voices.head?, s.counter)) (exec (.noteOn 0 60 64) idle) =
      some (rw [(0, 0xB8), (1, 0x01), (8, 0x08)], some ⟨true, 60, 64, 0, 2⟩, 2) := by decide

/-- D1: a retrigger takes one stamp and no second voice. -/
theorem test_noteOn_retrigger :
    peek (fun s => (s.trace, s.voices.head?, s.counter)) (exec (.noteOn 0 60 127) playing) =
      some (rw [(0, 0xB8), (1, 0x01), (8, 0x0F)], some ⟨true, 60, 127, 0, 3⟩, 3) := by decide

/-- L3: with every voice active the smallest stamp is stolen. -/
theorem test_noteOn_steals :
    peek (fun s => s.voices.map fun v => v.allocatedAt) (exec (.noteOn 0 65 100) full) = some [8, 10, 6] := by decide

/-- R172's example, and a release on another channel (R173). -/
theorem test_noteOff :
    peek (fun s => (s.trace, s.voices.head?)) (exec (.rs2 60 0) playing) =
      some (rw [(8, 0x00)], some ⟨false, 60, 64, 0, 2⟩) ∧
    peek State.trace (exec (.noteOff 1 60 0) playing) = some [] := by decide

/-- D4: a controller lands on the first active voice, whatever its channel; D5: on none, nothing. -/
theorem test_cc :
    peek (fun s => (s.trace, s.lvl)) (exec (.cc 5 7 127) playing) = some (rw [(8, 0x0F)], #v[0x0F, 0, 0]) ∧
    peek State.trace (exec (.cc 0 7 127) idle) = some [] := by decide

/-- R178's example, and a program beyond the table. -/
theorem test_pc :
    peek State.trace (exec (.pc 1 2) idle) = some (rw [(13, 0x08)]) ∧
    peek State.trace (exec (.pc 1 4) idle) = some [] := by decide

/-- D13: `440 - tdiv(440 * 4096, 65536) = 413`. -/
theorem test_pb : peek State.trace (exec (.pb 0 0x00 0x60) playing) = some (rw [(0, 0x9D), (1, 0x01)]) := by decide

/-- R230's examples at both ends of the bend, base 262: truncation, not flooring (R232). -/
theorem test_bend_ends :
    bentPeriod Config.p0 262 8191 = 230 ∧ bentPeriod Config.p0 262 (-8192) = 294 ∧ bentPeriod Config.p0 262 0 = 262 := by
  decide

/-- S7, R216 and R218's examples. -/
theorem test_levels :
    (setVolume 0 200 { idle with lvl := #v[0x18, 0, 0] }).lvl = #v[0x1F, 0, 0] ∧
    (setAttack 0 64 { idle with lvl := #v[0x08, 0, 0] }).trace = rw [(11, 0x80), (12, 0x00), (8, 0x18)] ∧
    (setSustain 0 127 { idle with lvl := #v[0x1A, 0, 0] }).trace = rw [(8, 0x0F)] := by decide

/-- S9: 64 selects plain, 65 decay. -/
theorem test_decay :
    (setDecay 0 64 idle).trace = rw [(13, 0x0D)] ∧ (setDecay 0 65 idle).trace = rw [(13, 0x0E)] := by decide

/-- R263's example: a present chip of zeros passes in 93 entries. -/
theorem test_detect_present :
    peek (fun s => (s.results, s.trace.length)) (execCmd .detect base) = some ([some true], 93) := by decide

/-- R260's example: an absent chip that answers 0xFF fails on the second mixer read. -/
theorem test_detect_absent :
    peek State.results (execCmd .detect { base with env := .absent 0xFF }) = some [some false] := by decide

/-- R253 to R255, R258: listed answers that match throughout; a mismatch of the second level pattern ends the run after
six pairs, a mismatch of the sentinel after nine, and both answer false. -/
theorem test_detect_listed :
    peek (fun s => (s.results, s.detected))
      (execCmd .detect { base with env := .unconstrained ([0, 0, 0, 0] ++ patterns ++ patterns ++ [0xA5]) 0 }) =
        some ([some true], 1) ∧
    peek (fun s => (s.results, s.detected, s.trace.length))
      (execCmd .detect { idle with env := .unconstrained ([0, 0, 0, 0] ++ patterns ++ [0x00, 0x54]) 0 }) =
        some ([some false], 0, 2 + 4 * 3 + 6 * 7 + 4 * 4) ∧
    peek (fun s => (s.results, s.detected))
      (execCmd .detect { base with env := .unconstrained ([0, 0, 0, 0] ++ patterns ++ patterns ++ [0xA4]) 0 }) =
        some ([some false], 0) := by decide

/-- R7: a turn with no item pending changes nothing. -/
theorem test_step_idle : step State.reset = .next State.reset := by rfl

/-- D7: bytes before any Select are parsed and dropped. -/
theorem test_withFetchWord :
    decodeTableWord 24 0x903C40 = some (.noteOn 0 60 64) ∧
    peek (fun s => (s.events, s.trace)) (step (State.reset.withFetchWord 24 0x903C40)) =
      some ([.noteOn 60 64 0], []) := by decide

/-- R187: a turn takes one byte of a pending message and leaves the others; the second turn takes the next. -/
theorem test_turn :
    peek (fun s => (s.parser.rs, s.input)) (turn { base with input := [.input (.message [0x90, 0x3C, 0x40])] }) =
      some (0x90, [.input (.byte 0x3C), .input (.byte 0x40)]) ∧
    peek (fun s => (s.parser.received, s.input))
      (turns 2 { base with input := [.input (.message [0x90, 0x3C, 0x40])] }) =
      some (1, [.input (.byte 0x40)]) := by decide

/-- R187, log entry 2: a step on a run of bytes that is no message is one turn. -/
theorem test_step_run :
    peek (fun s => (s.parser.rs, s.input)) (step { base with input := [.input (.message [0x90, 0x3C])] }) =
      some (0x90, [.input (.byte 0x3C)]) := by decide

/-- R271: no file, the default ports; a file, its ports. -/
theorem test_loadConfig :
    (loadConfig none).addrPort = 0xD8 ∧ (loadConfig (some (0x10, 0x11))).addrPort = 0x10 ∧
      (loadConfig (some (0x10, 0x11))).dataPort = 0x11 := by decide

/-! ### A state and operands that meet the hypotheses of each statement -/

set_option synthInstance.maxSize 1024

/-- The items `its` and nothing else are to come. -/
def feed (its : List Item) (s : State) : State := { s with input := its }

theorem parser_inv_reset : (Parser.reset).Inv := by constructor <;> decide

theorem parser_inv_noteOn : (⟨0x90, 0, 9, 2, 0, 60, 64⟩ : Parser).Inv := by constructor <;> decide

/-- A parser that holds the first of two data bytes. -/
theorem parser_inv_held : (⟨0x9F, 0xF, 9, 2, 1, 60, 0⟩ : Parser).Inv := by constructor <;> decide

/-- An unsupported status: no data byte is expected. -/
theorem parser_inv_unsupported : (⟨0xA5, 5, 0xA, 0, 0, 0, 0⟩ : Parser).Inv := by constructor <;> decide

theorem parser_inv_pc : (⟨0xC0, 0, 0xC, 1, 0, 0, 0⟩ : Parser).Inv := by constructor <;> decide

theorem chip_masked (cfg : Config) (a : BitVec 4) : ChipMasked cfg (.present ⟨a, Vector.replicate 16 0⟩) := by
  intro i x h
  have hx : (Vector.replicate 16 (0 : Byte)).get i.toFin = x := by
    simpa only [Env.reg, Psg.read, Option.some.injEq] using h
  have hz : (Vector.replicate 16 (0 : Byte)).get i.toFin = 0 := by simp only [Vector.get_replicate]
  rw [← hx, hz]
  exact BitVec.zero_and

theorem base_inv : base.Inv :=
  ⟨by decide, parser_inv_reset, by decide, by unfold NotesUnique; decide, by unfold StampsFresh; decide, rfl,
    chip_masked _ _⟩

theorem idle_inv : idle.Inv :=
  ⟨by decide, parser_inv_reset, by decide, by unfold NotesUnique; decide, by unfold StampsFresh; decide, rfl,
    chip_masked _ _⟩

theorem playing_inv : playing.Inv :=
  ⟨by decide, parser_inv_noteOn, by decide, by unfold NotesUnique; decide, by unfold StampsFresh; decide, rfl,
    chip_masked _ _⟩

theorem full_inv : full.Inv :=
  ⟨by decide, parser_inv_reset, by decide, by unfold NotesUnique; decide, by unfold StampsFresh; decide, rfl,
    chip_masked _ _⟩

theorem witness_DecodeReadsWhatEncodeWrites :
    (Instr.noteOn 15 127 127).wellFormed = true ∧ (Instr.data 0).wellFormed = true := by decide

theorem witness_EncodeWritesWhatDecodeReads :
    decode (.byte 0xFF) = .ok .rtFF ∧ decode (.message [0xEF, 0x7F, 0x7F]) = .ok (.pb 15 127 127) := by decide

/-- Each range at both of its ends. -/
theorem witness_EveryByteHasItsRow :
    decodeByte 0x00 = .data 0 ∧ decodeByte 0x7F = .data 127 ∧ decodeByte 0x80 = .stNoteOff 0 ∧
    decodeByte 0x8F = .stNoteOff 15 ∧ decodeByte 0x90 = .stNoteOn 0 ∧ decodeByte 0x9F = .stNoteOn 15 ∧
    decodeByte 0xA0 = .stPolyp 0 ∧ decodeByte 0xAF = .stPolyp 15 ∧ decodeByte 0xB0 = .stCc 0 ∧
    decodeByte 0xBF = .stCc 15 ∧ decodeByte 0xC0 = .stPc 0 ∧ decodeByte 0xCF = .stPc 15 ∧ decodeByte 0xD0 = .stChanp 0 ∧
    decodeByte 0xDF = .stChanp 15 ∧ decodeByte 0xE0 = .stPb 0 ∧ decodeByte 0xEF = .stPb 15 ∧
    decodeByte 0xF0 = .sysF0 ∧ decodeByte 0xFF = .rtFF := by decide

theorem witness_StepTakesOneItem :
    (feed [.input (.message [0x90, 0x3C])] base).input = .input (.message [0x90, 0x3C]) :: [] ∧
    (InputUnit.message [0x90, 0x3C]).bytes = 0x90 :: [0x3C] ∧ (InputUnit.message []).bytes = [] ∧
    decodeMessage [0x90, 0x3C] = .error .notAMessage ∧
    (feed [.input (.byte 0x90)] base).input = .input (.byte 0x90) :: [] ∧ decode (.byte 0x90) = .ok (.stNoteOn 0) ∧
    (feed [.cmd .detect] base).input = .cmd .detect :: [] ∧ base.input = [] := by decide

theorem witness_MessageStepEqualsItsByteSteps :
    decodeMessage [0x90, 0x3C, 0x40] = .ok (.noteOn 0 60 64) ∧ decodeMessage [0x90] = .error .incomplete ∧
    decodeMessage [0x90, 0x3C] = .error .notAMessage ∧
    decodeMessage [0x90, 0x3C, 0x40, 0x3C] = .error .tooLong := by decide

theorem witness_ByteStepParsesThenEmits :
    (feed [.input (.byte 0x7F), .cmd .panic] playing).input = .input (.byte 0x7F) :: [.cmd .panic] := by decide

/-- Each class of byte at both of its ends, each kind of parser state. -/
theorem witness_ParseFollowsTheByteClasses :
    0xF8 ≤ (0xF8 : Byte).toNat ∧ (0xF0 ≤ (0xF0 : Byte).toNat ∧ (0xF7 : Byte).toNat < 0xF8) ∧
    (0x80 ≤ (0x80 : Byte).toNat ∧ (0xEF : Byte).toNat < 0xF0) ∧ (0x7F : Byte).toNat < 0x80 ∧ (Parser.reset).rs = 0 ∧
    ((⟨0xA5, 5, 0xA, 0, 0, 0, 0⟩ : Parser).rs ≠ 0 ∧ (⟨0xA5, 5, 0xA, 0, 0, 0, 0⟩ : Parser).expected = 0) ∧
    (playing.parser.rs ≠ 0 ∧ playing.parser.expected ≠ 0) := by decide

theorem witness_UnusableDataBytesChangeNothing :
    base.parser.rs = 0 ∧ ((withParser ⟨0xA5, 5, 0xA, 0, 0, 0, 0⟩ base).parser.rs ≠ 0 ∧
      (withParser ⟨0xA5, 5, 0xA, 0, 0, 0, 0⟩ base).parser.expected = 0) := by decide

theorem witness_FirstDataByteIsHeld :
    playing.parser.rs ≠ 0 ∧ playing.parser.expected = 2 ∧ playing.parser.received = 0 := by decide

/-- One parser state for each of the four clauses. -/
theorem witness_LastDataByteEmitsItsEvent :
    ∀ p ∈ [((⟨0x80, 0, 8, 2, 1, 60, 0⟩ : Parser), (8 : BitVec 4), (2 : BitVec 2), (1 : BitVec 2)),
        (⟨0x9F, 15, 9, 2, 1, 60, 0⟩, 9, 2, 1), (⟨0xB0, 0, 0xB, 2, 1, 7, 0⟩, 0xB, 2, 1), (⟨0xC0, 0, 0xC, 1, 0, 0, 0⟩, 0xC, 1, 0)],
      (withParser p.1 idle).parser.rs ≠ 0 ∧ (withParser p.1 idle).parser.command = p.2.1 ∧
        (withParser p.1 idle).parser.expected = p.2.2.1 ∧ (withParser p.1 idle).parser.received = p.2.2.2 := by decide

/-- One parser state for each of the four clauses. -/
theorem witness_ElidedMessagesEmitTheirEvent :
    ∀ p ∈ [((⟨0x80, 0, 8, 2, 0, 60, 0⟩ : Parser), (8 : BitVec 4)), (⟨0x9F, 15, 9, 2, 0, 60, 0⟩, 9),
        (⟨0xB0, 0, 0xB, 2, 0, 7, 0⟩, 0xB), (⟨0xE0, 0, 0xE, 2, 0, 0, 0⟩, 0xE)],
      (withParser p.1 idle).parser.rs ≠ 0 ∧ (withParser p.1 idle).parser.expected = 2 ∧
        (withParser p.1 idle).parser.received = 0 ∧ (withParser p.1 idle).parser.command = p.2 := by decide

theorem witness_ElidedMessagesEmitTheirEvent_bytes : ∃ t, exec (.data 127) playing = .next t := ⟨_, rfl⟩

theorem witness_EventsWithoutBackendAreDropped : base.active = none := by decide

/-- A retrigger; an allocation of the first free voice; a steal. -/
theorem witness_NoteOnSoundsOneVoice :
    (playing.active = some .psg ∧ playing.voices ≠ [] ∧ findByNote 60 0 playing = some 0) ∧
    (idle.active = some .psg ∧ idle.voices ≠ [] ∧ findByNote 127 15 idle = none ∧ allocIndex idle = 0) ∧
    (full.active = some .psg ∧ full.voices ≠ [] ∧ findByNote 127 15 full = none ∧ allocIndex full = 1) := by decide

/-- The note found at the first and at the last voice, and not found. -/
theorem witness_ReleaseSilencesItsVoice :
    playing.active = some .psg ∧ findByNote 60 0 playing = some 0 ∧ full.active = some .psg ∧
    findByNote 64 0 full = some 2 ∧ findByNote 60 1 playing = none := by decide

/-- One controller of P0 for each clause, with and without an active voice. -/
theorem witness_ControlChangeActsOnFirstActiveVoice :
    idle.active = some .psg ∧ firstActive idle = none ∧ playing.active = some .psg ∧ firstActive playing = some 0 ∧
    firstActive { full with voices := full.voices.set 0 Voice.empty |>.set 1 Voice.empty } = some 2 ∧
    ccAction playing.cfg 127 = .none ∧ ccAction playing.cfg 76 = .vibrato ∧ ccAction playing.cfg 92 = .tremolo ∧
    ccAction playing.cfg 1 = .modulation ∧ ccAction playing.cfg 7 = .volume ∧ ccAction playing.cfg 73 = .attack ∧
    ccAction playing.cfg 75 = .decay ∧ ccAction playing.cfg 79 = .sustain ∧ ccAction playing.cfg 72 = .release := by decide

/-- The last program of the table and the first beyond it. -/
theorem witness_ProgramChangeSetsTheShape :
    idle.active = some .psg ∧ idle.cfg.presetShape[(3 : BitVec 7).toNat]? = some 0xA ∧
    idle.cfg.presetShape.length ≤ (4 : BitVec 7).toNat := by decide

/-- The value of the lowest bend; the writes are whatever the equation says. -/
theorem witness_PitchBendRewritesActivePeriods :
    full.active = some .psg ∧ (-8192 : Int) = (((0 : BitVec 7) ++ (0 : BitVec 7)).toNat : Int) - 8192 := by decide

/-- A row that completes no Event, a message, a data byte, and two. -/
theorem witness_InstructionsStoreOnlyTheirRegisters :
    playing.cfg.addrPort ≠ playing.cfg.dataPort ∧
    (∃ t, exec (.sysF0) playing = .next t) ∧ (∃ t, exec (.noteOff 0 60 64) playing = .next t) ∧
    (∃ t, exec (.data 60) playing = .next t) ∧
    (∃ t u, exec (.data 60) playing = .next u ∧ exec (.rs2 60 0) playing = .next t) ∧
    (∀ w ∈ eventWrites (.noteOff 60 0) playing, select4 w.1 ≠ 13) ∧
    (∀ w ∈ dataWrites 60 playing, select4 w.1 ≠ 13) :=
  ⟨by decide, ⟨_, rfl⟩, ⟨_, rfl⟩, ⟨_, rfl⟩, ⟨_, _, rfl, rfl⟩,
    by rw [show eventWrites (.noteOff 60 0) playing = [(8, 0)] from rfl]; exact List.forall_mem_singleton.mpr (by decide),
    by rw [show dataWrites 60 playing = [] from rfl]; exact List.forall_mem_nil _⟩

theorem witness_NoteOnStoresPeriodAndLevel :
    idle.Inv ∧ idle.cfg.chipFits = true ∧ idle.env = .present ⟨0, Vector.replicate 16 0⟩ ∧ idle.active = some .psg ∧
      ∃ t, exec (.noteOn 0 60 1) idle = .next t :=
  ⟨idle_inv, by decide, rfl, rfl, ⟨_, rfl⟩⟩

theorem witness_RegisterReadsBackWhatWasWritten :
    base.cfg.addrPort ≠ base.cfg.dataPort ∧ base.env = .present ⟨0, Vector.replicate 16 0⟩ ∧
      (15 : Byte).setWidth 4 ≠ (0 : Byte).setWidth 4 ∧ ({ base with env := .absent 0xFF } : State).env = .absent 0xFF := by
  decide

/-- A detection window, and a note. -/
theorem witness_EveryStepKeepsBusDiscipline :
    (∃ t, step (feed [.cmd .detect] base) = .next t) ∧
      ∃ t, step (feed [.input (.message [0x90, 0x3C, 0x40])] idle) = .next t := ⟨⟨_, rfl⟩, ⟨_, rfl⟩⟩

theorem witness_OnlyDetectionReadsTheBus :
    (∃ t, step (feed [.input (.message [0x90, 0x3C, 0x40])] idle) = .next t) ∧
      ∀ rest, (feed [.input (.message [0x90, 0x3C, 0x40])] idle).input ≠ .cmd .detect :: rest :=
  ⟨⟨_, rfl⟩, by intro rest h; cases h⟩

theorem witness_RealTimeBytesAreTransparent :
    ([0x90, 0x3C, 0x40] : List Byte).filter (fun b => !isRealTime b) =
      ([0x90, 0xF8, 0x3C, 0xFF, 0x40] : List Byte).filter fun b => !isRealTime b := by decide

theorem witness_ParserInvariantIsKept : (⟨0x9F, 0xF, 9, 2, 1, 60, 0⟩ : Parser).Inv := parser_inv_held

/-- The view of each of the last four clauses, at both counts of a two-byte message. -/
theorem witness_ParserViewMoves :
    (Parser.reset).Inv ∧ (Parser.reset).view = .awaitingStatus ∧
    (⟨0xA5, 5, 0xA, 0, 0, 0, 0⟩ : Parser).Inv ∧ (⟨0xA5, 5, 0xA, 0, 0, 0, 0⟩ : Parser).view = .accumulating 0 0 ∧
    (⟨0x90, 0, 9, 2, 0, 60, 64⟩ : Parser).Inv ∧ (⟨0x90, 0, 9, 2, 0, 60, 64⟩ : Parser).view = .accumulating 2 0 ∧
    (⟨0x9F, 0xF, 9, 2, 1, 60, 0⟩ : Parser).Inv ∧ (⟨0x9F, 0xF, 9, 2, 1, 60, 0⟩ : Parser).view = .accumulating 2 1 :=
  ⟨parser_inv_reset, rfl, parser_inv_unsupported, rfl, parser_inv_noteOn, rfl, parser_inv_held, rfl⟩

/-- A parser of two data bytes, one of one, and a byte that changes the running status. -/
theorem witness_RunningStatusPersists :
    (playing.parser.Inv ∧ playing.parser.rs ≠ 0 ∧ playing.parser.expected ≠ 0 ∧ playing.parser.received = 0) ∧
    (⟨0xC0, 0, 0xC, 1, 0, 0, 0⟩ : Parser).Inv ∧ (parse playing.parser 0xF7).1.rs ≠ playing.parser.rs :=
  ⟨⟨parser_inv_noteOn, by decide, by decide, by decide⟩, parser_inv_pc, by decide⟩

theorem witness_CutMessagesAreLost :
    0x80 ≤ (0x80 : Byte).toNat ∧ (0xF7 : Byte).toNat ≤ 0xF7 ∧ 0xF0 ≤ (0xF0 : Byte).toNat := by decide

/-- Both ends of the bend, and a parser that holds the first byte of one. -/
theorem witness_PitchBendValueIsOffsetBinary :
    (-8192 : Int) ≤ -8192 ∧ (8191 : Int) ≤ 8191 ∧
    (withParser ⟨0xE3, 3, 0xE, 2, 1, 0, 0⟩ idle).parser.rs ≠ 0 ∧
    (withParser ⟨0xE3, 3, 0xE, 2, 1, 0, 0⟩ idle).parser.command = 0xE ∧
    (withParser ⟨0xE3, 3, 0xE, 2, 1, 0, 0⟩ idle).parser.expected = 2 ∧
    (withParser ⟨0xE3, 3, 0xE, 2, 1, 0, 0⟩ idle).parser.received = 1 := by decide

/-- A free slot, and none. -/
theorem witness_AllocateTakesFirstFreeElseOldest :
    idle.voices ≠ [] ∧ (allocate 60 64 0 playing).1 = 1 ∧ (allocate 60 64 0 full).1 = 1 ∧
      ∀ w < full.voices.length, (full.voice w).active = true := by decide

theorem witness_ThreeAllocationsThenSteal :
    (∃ v1 v2 v3 v4 s1 s2 s3 s4, idle.voices.length = 3 ∧ (∀ x ∈ idle.voices, x.active = false) ∧
      allocate 60 64 0 idle = (v1, s1) ∧ allocate 62 64 0 s1 = (v2, s2) ∧ allocate 64 64 0 s2 = (v3, s3) ∧
      allocate 65 64 0 s3 = (v4, s4)) ∧
    NotesUnique full ∧ 2 < full.voices.length ∧ (full.voice 2).active = true :=
  ⟨⟨_, _, _, _, _, _, _, _, by decide, by decide, rfl, rfl, rfl, rfl⟩, full_inv.unique, by decide, by decide⟩

theorem witness_VolumeAndScaleLaws : (0 : Byte).toNat ≤ (255 : Byte).toNat := by decide

theorem witness_PeriodsFallAsNotesRise :
    Config.p0.valid = true ∧ (0 : BitVec 7).toNat ≤ (127 : BitVec 7).toNat := by decide

/-- The largest base with the lowest and the highest bend, and a product below `BEND_K`. -/
theorem witness_BendStaysInRange :
    Config.p0.valid = true ∧ (1 : Nat) ≤ 4095 ∧ (-8192 : Int) ≤ -8192 ∧ (8191 : Int) ≤ 8191 ∧
      (((1 : Nat) : Int) * -8192).natAbs < Config.p0.bendK := by decide

/-- Outside the domain; inside it with and without a backend; a duplicate. -/
theorem witness_HostOpsCompleteOnTheirDomain :
    BackendOp.wellFormed idle.cfg.n (.noteOn 3 0 0 0) = false ∧
    (BackendOp.wellFormed base.cfg.n .panic = true ∧ base.active = none) ∧
    (BackendOp.wellFormed playing.cfg.n (.noteOn 2 127 127 15) = true ∧ playing.active = some .psg ∧
      soundsElsewhere 2 ((127 : Byte).setWidth 7) ((15 : Byte).setWidth 4) playing = false) ∧
    (BackendOp.wellFormed playing.cfg.n (.noteOn 1 60 64 0) = true ∧
      soundsElsewhere 1 ((60 : Byte).setWidth 7) ((0 : Byte).setWidth 4) playing = true) := by decide

/-- With and without an active backend. -/
theorem witness_AllOffAndPanicSilenceEveryVoice :
    full.active = some .psg ∧ full.voices.length = full.cfg.n ∧ base.active = none := by decide

theorem witness_MixerStaysOffAfterPanic :
    playing.Inv ∧ playing.cfg.chipFits = true ∧ playing.env = .present ⟨0, Vector.replicate 16 0⟩ ∧
      playing.active = some .psg ∧
      ∃ t u, execCmd .panic playing = .next t ∧
        Host.Core.run Sys2Proof.core 1 { t with input := byteItems [0x40] } = .next u :=
  ⟨playing_inv, by decide, rfl, rfl, ⟨_, _, rfl, rfl⟩⟩

/-- The step clause: no item, a detection run, a data byte. -/
theorem witness_MixerStaysOffAfterPanic_step :
    ∀ q ∈ [[], [Item.cmd .detect], [Item.input (.byte 0x40)]],
      (feed q playing).Inv ∧ (feed q playing).cfg.chipFits = true ∧
        (feed q playing).env = .present ⟨0, Vector.replicate 16 0⟩ ∧
        (∀ c rest, (feed q playing).input = .cmd c :: rest → c.setsMixer = false) ∧
        (feed q playing).env.reg (select4 playing.cfg.mixer) = some 0 ∧ ∃ t, step (feed q playing) = .next t := by
  intro q hq
  simp only [List.mem_cons, List.not_mem_nil, or_false] at hq
  have inv : ∀ q, (feed q playing).Inv := fun q =>
    ⟨playing_inv.config, playing_inv.parser, playing_inv.size, playing_inv.unique, playing_inv.stamps,
      playing_inv.unmasked, playing_inv.chip⟩
  rcases hq with rfl | rfl | rfl
  · exact ⟨inv _, by decide, rfl, (by intro c r h; cases h), rfl, ⟨_, rfl⟩⟩
  · exact ⟨inv _, by decide, rfl, (by intro c r h; cases h; rfl), rfl, ⟨_, rfl⟩⟩
  · exact ⟨inv _, by decide, rfl, (by intro c r h; cases h), rfl, ⟨_, rfl⟩⟩

theorem witness_InitDeterminesTheChip :
    base.cfg.valid = true ∧ base.cfg.chipFits = true ∧ base.env = .present ⟨0, Vector.replicate 16 0⟩ := by decide

theorem witness_AttackAndReleaseShareTheEnvelope :
    idle.cfg.valid = true ∧ idle.cfg.chipFits = true ∧ idle.env = .present ⟨0, Vector.replicate 16 0⟩ ∧ 2 < 3 := by decide

/-- An unknown kind on a chip detected, and a known kind not detected. -/
theorem witness_SelectOfUndetectedFails : (1 ≠ 0 ∧ idle.detected = 1) ∧ base.detected = 0 := by decide

/-- With and without an outgoing backend. -/
theorem witness_SelectSilencesThenInitialises :
    (playing.detected = 1 ∧ playing.active = some .psg) ∧
      ({ base with detected := 1 } : State).detected = 1 ∧ base.active ≠ some .psg := by decide

theorem witness_DetectionFindsAPresentChip :
    playing.Inv ∧ playing.cfg.chipFits = true ∧ playing.env = .present ⟨0, Vector.replicate 16 0⟩ :=
  ⟨playing_inv, by decide, rfl⟩

theorem witness_DetectionRejectsAnAbsentChip :
    ({ base with env := .absent 0x00 } : State).cfg.mixerRwMask ≠ 0 ∧ base.irqMask = false ∧
      ({ base with env := .absent 0x00 } : State).env = .absent 0x00 := by decide

/-- Thirteen listed answers. -/
theorem witness_DetectionTraceShape :
    ∃ answers n, ({ base with env := .unconstrained (List.replicate 13 0) 0 } : State).env = .unconstrained answers n ∧
      13 ≤ answers.length := ⟨_, _, rfl, by decide⟩

theorem witness_LevelValuesKeepTheirParts : 0 < 3 ∧ 2 < 3 := by decide

theorem witness_StepKeepsTheInvariant :
    playing.Inv ∧ ∃ t, step (feed [.input (.byte 0x3C)] playing) = .next t := ⟨playing_inv, ⟨_, rfl⟩⟩

theorem witness_ShadowsAgreeWithTheChip :
    base.Inv ∧ base.cfg.chipFits = true ∧ LevelsStored base.cfg ∧ ShadowsAgree base ∧
      (∃ t, step (feed [.cmd .detect] base) = .next t) ∧
      ∀ rest, (feed [.cmd .detect] base).input ≠ .cmd .reset :: rest ∧
        (feed [.cmd .detect] base).input ≠ .cmd .reinit :: rest :=
  ⟨base_inv, by decide, by unfold LevelsStored; decide, by unfold ShadowsAgree; decide, ⟨_, rfl⟩,
    by intro rest; constructor <;> intro h <;> cases h⟩

theorem witness_OnlyHostOpsAreRefused :
    step (feed [.cmd (.op (.noteOff 3))] idle) = .refused .voiceOutOfRange := rfl

theorem witness_StampsOnlyRise :
    playing.Inv ∧ (∃ t, step (feed [.input (.message [0x3E, 0x40])] playing) = .next t ∧
      2 < t.voices.length ∧ (t.voice 1).allocatedAt ≠ (playing.voice 1).allocatedAt ∧ (t.voice 1).allocatedAt ≠ 0) ∧
    ∀ rest, (feed [.input (.message [0x3E, 0x40])] playing).input ≠ .cmd .reset :: rest ∧
      (feed [.input (.message [0x3E, 0x40])] playing).input ≠ .cmd .reinit :: rest :=
  ⟨playing_inv, ⟨_, rfl, by decide, by decide, by decide⟩, by intro rest; constructor <;> intro h <;> cases h⟩

theorem witness_ConstructionValidates :
    ({ Config.p0 with addrPort := 0xD0 } : Config).addrPort = ({ Config.p0 with addrPort := 0xD0 } : Config).dataPort ∧
    ({ Config.p0 with n := 0 } : Config).n = 0 ∧ Config.p0.valid = true := by decide

end Sys2Proof.Tests
end

section
/-! One byte of the stream through the decoder and `exec`, said once: the instruction of a byte's row does what the block's
step for `Byte(b)` does (R120 to R124), and the step on a byte item is that instruction. -/

namespace Sys2Proof.ByteStep

open Sys2Proof.Machine Sys2Proof.Laws

section Rules

variable (s : State)

/-! ### The byte classes: the row a byte decodes to -/

theorem decodeByte_data {b : Byte} (hd : isData b = true) : decodeByte b = .data (dataField b) := if_pos hd

theorem decodeByte_systemCommon :
    ∀ b : Byte, 0xF0 ≤ b.toNat → b.toNat < 0xF8 →
      decodeByte b ∈ [Instr.sysF0, .sysF1, .sysF2, .sysF3, .sysF4, .sysF5, .sysF6, .sysF7] := by
  decide

theorem decodeByte_realTime :
    ∀ b : Byte, 0xF8 ≤ b.toNat →
      decodeByte b ∈ [Instr.rtF8, .rtF9, .rtFA, .rtFB, .rtFC, .rtFD, .rtFE, .rtFF] := by
  decide

/-- The high nibbles of the channel-voice status bytes (R92). -/
theorem highNibble_status :
    ∀ b : Byte, isStatus b = true → b.toNat < 0xF0 →
      highNibble b ∈ [0x8#4, 0x9#4, 0xA#4, 0xB#4, 0xC#4, 0xD#4, 0xE#4] := by
  decide

/-! ### The byte classes: what the rows of a class do -/

/-- The real-time rows, the class row and the eight named bytes (R122). -/
theorem exec_realTime (low : BitVec 3) :
    ∀ i ∈ [Instr.rt low, .rtF8, .rtF9, .rtFA, .rtFB, .rtFC, .rtFD, .rtFE, .rtFF], exec i s = .next (realTime s) := by
  simp only [List.forall_mem_cons]
  exact ⟨exec_rt s low, exec_rtF8 s, exec_rtF9 s, exec_rtFA s, exec_rtFB s, exec_rtFC s, exec_rtFD s, exec_rtFE s,
    exec_rtFF s, List.forall_mem_nil _⟩

/-- The eight named system-common bytes (R123). -/
theorem exec_systemCommon :
    ∀ i ∈ [Instr.sysF0, .sysF1, .sysF2, .sysF3, .sysF4, .sysF5, .sysF6, .sysF7],
      exec i s = .next (systemCommon s) := by
  simp only [List.forall_mem_cons]
  exact ⟨exec_sysF0 s, exec_sysF1 s, exec_sysF2 s, exec_sysF3 s, exec_sysF4 s, exec_sysF5 s, exec_sysF6 s, exec_sysF7 s,
    List.forall_mem_nil _⟩

/-- The seven `ST.` rows: each runs `statusByte` with its own command nibble (R124 to R131). -/
theorem exec_decodeByte_status {b : Byte} (hs : isStatus b = true) (h : b.toNat < 0xF0) :
    exec (decodeByte b) s = .next (statusByte (highNibble b) (lowNibble b) s) := by
  have hd : isData b = false := congrArg not hs
  have hn := highNibble_status b hs h
  simp only [List.mem_cons, List.not_mem_nil, or_false] at hn
  rcases hn with hn | hn | hn | hn | hn | hn | hn <;>
    simp [decodeByte, hd, hn, exec_stNoteOff, exec_stNoteOn, exec_stPolyp, exec_stCc, exec_stPc, exec_stChanp, exec_stPb]

/-! ### The block's step for a byte -/

theorem takeByte_of_event {b : Byte} {e : Event} (h : (parse s.parser b).2 = some e) :
    takeByte b s = dispatch e { s with parser := (parse s.parser b).1, events := s.events ++ [e] } := by
  rw [takeByte, h]; rfl

theorem takeByte_of_noEvent {b : Byte} (h : (parse s.parser b).2 = none) :
    takeByte b s = { s with parser := (parse s.parser b).1 } := by
  rw [takeByte, h]; rfl

/-- The row of a byte does what R120's step for that byte does, by the classes of R121. -/
theorem exec_decodeByte (b : Byte) : exec (decodeByte b) s = .next (takeByte b s) := by
  cases hs : isStatus b with
  | false =>
    have hd : isData b = true := congrArg not hs
    rw [decodeByte_data hd, exec_data, takeByte, parse_data _ _ hd, dataByte]
  | true =>
    by_cases hrt : 0xF8 ≤ b.toNat
    · rw [exec_realTime s 0 _ (List.mem_cons_of_mem _ (decodeByte_realTime b hrt)), takeByte, parse_realTime _ _ hrt]
      rfl
    · by_cases hsys : 0xF0 ≤ b.toNat
      · have hlt : b.toNat < 0xF8 := by omega
        rw [exec_systemCommon s _ (decodeByte_systemCommon b hsys hlt), takeByte, parse_systemCommon _ _ hsys hlt]
        rfl
      · have hlt : b.toNat < 0xF0 := by omega
        rw [exec_decodeByte_status s hs hlt, takeByte, parse_status _ _ hlt hs]
        rfl

/-- The step on a byte item takes that byte and leaves the items after it pending (R120, R187). -/
theorem step_byte {b : Byte} {rest : List Item} (h : s.input = .input (.byte b) :: rest) :
    step s = .next (takeByte b (s.setInput rest)) := by
  have hturn : step s = turn s := step_turn s (by simp [h])
  rw [hturn, turn_input s h (bs := []) rfl, exec_decodeByte]
  rfl

end Rules

/-! ### The obligations -/

/-- Settles O7: the step on a byte item is `takeByte`, with an Event or without. -/
theorem byteStepParsesThenEmits : Obligations.ByteStepParsesThenEmits := by
  intro s b rest h
  rw [step_byte s h]
  cases he : (parse s.parser b).2 with
  | some e => rw [takeByte_of_event (s.setInput rest) he]; rfl
  | none => rw [takeByte_of_noEvent (s.setInput rest) he]; rfl

/-- Settles O11: every real-time row runs `realTime`, which is the identity (R122). -/
theorem realTimeBytesChangeNothing : Obligations.RealTimeBytesChangeNothing := by
  intro low s i hi
  rw [exec_realTime s low i hi, realTime_eq]

end Sys2Proof.ByteStep
end

section
/-! The allocator's ascending scans, exactly: an index is the answer if and only if it is the lowest match (R155, R156).
The converse of `scan_some` is that a table has at most one lowest match, and a scan answers none only without one. -/

namespace Sys2Proof.Scans

open Sys2Proof.Machine Sys2Proof.Laws

/-- An ascending scan answers `v` exactly when `v` is the lowest match. -/
theorem scan_eq_some_iff (s : State) (f : Voice → Bool) (v : Nat) :
    s.voices.findIdx? f = some v ↔
      v < s.voices.length ∧ f (s.voice v) = true ∧ ∀ w < v, f (s.voice w) = false := by
  refine ⟨scan_some s f v, fun ⟨hv, hf, hmin⟩ => ?_⟩
  cases hscan : s.voices.findIdx? f with
  | none => simp [scan_none s f hscan v hv] at hf
  | some u =>
    obtain ⟨-, hfu, hminu⟩ := scan_some s f u hscan
    rcases Nat.lt_trichotomy u v with huv | rfl | hvu
    · simp [hmin u huv] at hfu
    · rfl
    · simp [hminu v hvu] at hf

theorem findByNote_eq_some_iff (s : State) (note : BitVec 7) (channel : BitVec 4) (v : Nat) :
    findByNote note channel s = some v ↔
      v < s.voices.length ∧ (s.voice v).sounds note channel = true ∧
        ∀ w < v, (s.voice w).sounds note channel = false :=
  scan_eq_some_iff s _ v

theorem firstActive_eq_some_iff (s : State) (v : Nat) :
    firstActive s = some v ↔
      v < s.voices.length ∧ (s.voice v).active = true ∧ ∀ w < v, (s.voice w).active = false :=
  scan_eq_some_iff s _ v

/-- Settles O38: both scans by `scan_eq_some_iff`, with `sounds` read as R155's three conditions. -/
theorem scansFindTheLowestMatch : Obligations.ScansFindTheLowestMatch := by
  intro s note channel
  refine ⟨fun v => ?_, firstActive_eq_some_iff s⟩
  simp only [findByNote_eq_some_iff, ← sounds_iff, Bool.not_eq_true]

end Sys2Proof.Scans
end

section
/-! Releases through the whole block (R172, R173): the two data bytes of a message complete it with the Event of its `P`,
and NoteOff and NoteOn with velocity 0 are routed alike. -/

namespace Sys2Proof.Release

open Sys2Proof.Machine Sys2Proof.Laws

section Rules

variable (s : State)

/-! ### A message with two data bytes -/

/-- `P` after a whole message with two data bytes (R124, R134). -/
def messageParser (command c : BitVec 4) (x y : BitVec 7) : Parser :=
  ⟨statusByteOf command c, c, command, 2, 0, x, y⟩

/-- The first data byte after a status byte that expects two is stored, and completes nothing (R134). -/
theorem parseData_first {command : BitVec 4} (h : expectedOf command = 2) (h0 : command ≠ 0) (c : BitVec 4)
    (x : BitVec 7) :
    parseData (statusParser command c) x = ({ statusParser command c with received := 1, data1 := x }, none) := by
  have hrs : ¬statusByteOf command c = 0#8 := statusByteOf_ne_zero command c h0
  simp [parseData, accumulate, store, statusParser, h, hrs]

/-- The second data byte completes the message, with the Event of its `P` (R134). -/
theorem parseData_second {command : BitVec 4} (h : expectedOf command = 2) (h0 : command ≠ 0) (c : BitVec 4)
    (x y : BitVec 7) :
    parseData { statusParser command c with received := 1, data1 := x } y =
      (messageParser command c x y, eventOf (messageParser command c x y)) := by
  have hrs : ¬statusByteOf command c = 0#8 := statusByteOf_ne_zero command c h0
  simp [parseData, accumulate, store, statusParser, h, hrs, eventOf, messageParser]

/-- A status byte that expects two data bytes, and those two, set `P` and deliver the Event of it (R120, R134). -/
theorem dataByte_dataByte_statusByte {command : BitVec 4} (h : expectedOf command = 2) (h0 : command ≠ 0)
    (c : BitVec 4) (x y : BitVec 7) :
    dataByte y (dataByte x (statusByte command c s)) =
      deliver (eventOf (messageParser command c x y)) (s.setParser (messageParser command c x y)) := by
  have hfirst : dataByte x (statusByte command c s) =
      s.setParser { statusParser command c with received := 1, data1 := x } := by
    rw [dataByte, statusByte, setParser_parser, parseData_first h h0]
    rfl
  rw [hfirst, dataByte, setParser_parser, parseData_second h h0]
  rfl

theorem exec_noteOff_emit (c : BitVec 4) (n v : BitVec 7) :
    exec (.noteOff c n v) s = .next (emit (.noteOff n c) (s.setParser (messageParser 0x8 c n v))) := by
  rw [exec_noteOff, dataByte_dataByte_statusByte s rfl (by decide)]
  rfl

theorem exec_noteOn_emit (c : BitVec 4) (n v : BitVec 7) :
    exec (.noteOn c n v) s = .next (emit (.noteOn n v c) (s.setParser (messageParser 0x9 c n v))) := by
  rw [exec_noteOn, dataByte_dataByte_statusByte s rfl (by decide)]
  rfl

/-! ### The two Events of a release -/

/-- A NoteOff, or a NoteOn with velocity 0 (R172). -/
def IsRelease (n : BitVec 7) (c : BitVec 4) (e : Event) : Prop := e = .noteOff n c ∨ e = .noteOn n 0 c

theorem routePsg_release {n : BitVec 7} {c : BitVec 4} {e : Event} (he : IsRelease n c e) :
    routePsg e s = routeNoteOff n c s := by
  rcases he with rfl | rfl
  · rfl
  · rw [routePsg, if_pos rfl]

theorem dispatch_psg (e : Event) (h : s.active = some .psg) : dispatch e s = routePsg e s := by
  rw [dispatch, h]

/-- With the PSG active, a release Event is recorded and routed as a release (R170, R172). -/
theorem emit_release {n : BitVec 7} {c : BitVec 4} {e : Event} (he : IsRelease n c e) (hact : s.active = some .psg) :
    emit e s = routeNoteOff n c (s.addEvent e) := by
  have hact' : (s.addEvent e).active = some .psg := hact
  rw [emit, dispatch_psg _ e hact', routePsg_release _ he]

/-- The voice that sounds the note is silenced by one write of 0 to its level register, and is inactive (R173, R214). -/
theorem emit_release_found {n : BitVec 7} {c : BitVec 4} {e : Event} (he : IsRelease n c e)
    (hact : s.active = some .psg) {w : Nat} (hw : findByNote n c s = some w) :
    emit e s =
      { s with
        events := s.events ++ [e]
        voices := s.voices.set w { s.voice w with active := false }
        lvl := s.lvl.setIfInBounds w 0
        trace := s.trace ++ writesTrace s.cfg [(levelReg s.cfg w, 0)]
        env := s.env.afterWrites s.cfg [(levelReg s.cfg w, 0)] } := by
  have hw' : findByNote n c (s.addEvent e) = some w := hw
  rw [emit_release s he hact, routeNoteOff_found _ n c w hw', noteOff_eq]
  rfl

/-- A release of a note no voice sounds is recorded, and nothing more (R173). -/
theorem emit_release_absent {n : BitVec 7} {c : BitVec 4} {e : Event} (he : IsRelease n c e)
    (hact : s.active = some .psg) (hnone : findByNote n c s = none) : emit e s = s.addEvent e := by
  have hnone' : findByNote n c (s.addEvent e) = none := hnone
  rw [emit_release s he hact, routeNoteOff_absent _ n c hnone']

end Rules

/-- Settles O19: both instructions emit a release Event, which `emit_release_found` and `emit_release_absent` follow
through the Dispatcher. -/
theorem releaseSilencesItsVoice : Obligations.ReleaseSilencesItsVoice := by
  intro s c n v hact
  have hoff : IsRelease n c (.noteOff n c) := .inl rfl
  have hon : IsRelease n c (.noteOn n 0 c) := .inr rfl
  have hact' : ∀ p, (s.setParser p).active = some .psg := fun _ => hact
  constructor
  · intro w hw
    have hw' : ∀ p, findByNote n c (s.setParser p) = some w := fun _ => hw
    rw [exec_noteOff_emit, exec_noteOn_emit, emit_release_found _ hoff (hact' _) (hw' _),
      emit_release_found _ hon (hact' _) (hw' _)]
    exact ⟨rfl, rfl⟩
  · intro hnone
    have hnone' : ∀ p, findByNote n c (s.setParser p) = none := fun _ => hnone
    rw [exec_noteOff_emit, exec_noteOn_emit, emit_release_absent _ hoff (hact' _) (hnone' _),
      emit_release_absent _ hon (hact' _) (hnone' _)]
    exact ⟨rfl, rfl⟩

end Sys2Proof.Release
end

section
/-! The chip registry's refusals (R184): a kind number other than 0 names no backend, and a known one must be detected. -/

namespace Sys2Proof.Registry

open Sys2Proof.Machine Sys2Proof.Laws

theorem kindOf_zero : kindOf 0 = some .psg := rfl

theorem kindOf_eq_none {kind : Nat} (h : kind ≠ 0) : kindOf kind = none := by
  simp [kindOf, knownKinds, Backend.bit, h.symm]

theorem isDetected_of_none_detected {s : State} (h : s.detected = 0) (b : Backend) : s.isDetected b = false := by
  simp [State.isDetected, h]

theorem select_of_unknown (s : State) {kind : Nat} (h : kindOf kind = none) : select kind s = (false, s) := by
  simp [select, h]

theorem select_of_undetected (s : State) {kind : Nat} {b : Backend} (h : kindOf kind = some b)
    (hd : s.isDetected b = false) : select kind s = (false, s) := by
  simp [select, h, hd]

/-- Settles O49: a kind other than 0 is unknown, and kind 0 is undetected when the detected set is empty. -/
theorem selectOfUndetectedFails : Obligations.SelectOfUndetectedFails := by
  intro s kind h
  have hsel : select kind s = (false, s) := by
    by_cases hk : kind = 0
    · subst hk
      have hd : s.detected = 0 := h.resolve_left fun hne => hne rfl
      exact select_of_undetected s kindOf_zero (isDetected_of_none_detected hd .psg)
    · exact select_of_unknown s (kindOf_eq_none hk)
  rw [execCmd, hsel]
  rfl

end Sys2Proof.Registry
end

section
/-! Encoding and decoding are inverse (R91, R95, R99, R103): the nibbles and the seven data bits of a byte give the byte
back, and each row is read by the class of its first byte. -/

namespace Sys2Proof.Encoding

open Sys2Proof.Machine Sys2Proof.Laws

/-! ### The class of a byte that is written -/

/-- A byte made of a command nibble is a data byte exactly when bit 3 of the nibble is clear (R90, R92). -/
theorem isData_statusByteOf (command c : BitVec 4) : isData (statusByteOf command c) = !command.getLsbD 3 := by
  revert command c; decide

theorem isStatus_dataByteOf (d : BitVec 7) : isStatus (dataByteOf d) = false := by
  revert d; decide

/-- A status byte whose high nibble is `command` is the byte of that nibble and its channel (R92). -/
theorem statusByteOf_of_highNibble {b : Byte} {command : BitVec 4} (h : highNibble b = command) :
    statusByteOf command (lowNibble b) = b := by
  rw [← h, statusByteOf_nibbles]

theorem isData_of_not_isStatus {b : Byte} (h : isStatus b = false) : isData b = true := congrArg not h

/-! ### Byte items -/

theorem decodeByte_dataByteOf (d : BitVec 7) : decodeByte (dataByteOf d) = .data d := by
  rw [ByteStep.decodeByte_data (isData_dataByteOf d), dataField_dataByteOf]

/-- Every byte item is written as its row says (R91, R93, R103): a data row by its seven bits, a status row by its
nibbles, a system row by its name. -/
theorem encode_decodeByte (b : Byte) : encode (decodeByte b) = .byte b := by
  cases hs : isStatus b with
  | false =>
    have hd := isData_of_not_isStatus hs
    rw [ByteStep.decodeByte_data hd, encode, dataByteOf_dataField b hd]
  | true => revert b; decide

/-! ### Message units -/

/-- A system byte is its five class bits and its three low bits (R91). -/
theorem systemByteOf_lowBits :
    ∀ b : Byte, highNibble b = 0xF#4 →
      (if b.getLsbD 3 then 0b11111#5 else 0b11110#5) ++ b.extractLsb' 0 3 = b := by
  decide

theorem encode_of_decodeM1 {b : Byte} {i : Instr} (h : decodeM1 b = .ok i) : encode i = .message [b] := by
  unfold decodeM1 at h
  split at h
  · next hb => cases h; rw [encode, dataByteOf_dataField b hb]
  split at h
  · next hb => cases h; simp [encode, statusByteOf_of_highNibble hb]
  · next hb => cases h; simp [encode, statusByteOf_of_highNibble hb]
  · next hb =>
      have hlow := systemByteOf_lowBits b hb
      split at h
      · next h3 => cases h; rw [if_pos h3] at hlow; rw [encode, hlow]
      · next h3 => cases h; rw [if_neg h3] at hlow; rw [encode, hlow]
  · cases h

theorem encode_of_decodeM2 {b d : Byte} {i : Instr} (h : decodeM2 b d = .ok i) : encode i = .message [b, d] := by
  unfold decodeM2 at h
  split at h
  · cases h
  next hd =>
    have hdata := dataByteOf_dataField d (isData_of_not_isStatus (by simpa using hd))
    split at h
    · next hb => cases h; rw [encode, dataByteOf_dataField b hb, hdata]
    split at h
    · next hb => cases h; simp [encode, statusByteOf_of_highNibble hb, hdata]
    · cases h

theorem encode_of_decodeM3 {b d e : Byte} {i : Instr} (h : decodeM3 b d e = .ok i) : encode i = .message [b, d, e] := by
  unfold decodeM3 at h
  split at h
  · cases h
  next hde =>
    simp only [Bool.or_eq_true, not_or, Bool.not_eq_true] at hde
    have hd := dataByteOf_dataField d (isData_of_not_isStatus hde.1)
    have he := dataByteOf_dataField e (isData_of_not_isStatus hde.2)
    split at h
    case h_5 => cases h
    all_goals
      next hb => cases h; simp [encode, statusByteOf_of_highNibble hb, hd, he]

/-- A message unit that holds an instruction is the run of bytes the instruction is written as (R95, R99). -/
theorem encode_of_decodeMessage {bs : List Byte} {i : Instr} (h : decodeMessage bs = .ok i) : encode i = .message bs := by
  match bs, h with
  | [b], h => exact encode_of_decodeM1 h
  | [_, _], h => exact encode_of_decodeM2 h
  | [_, _, _], h => exact encode_of_decodeM3 h

/-! ### The obligations -/

/-- Settles O1: by the rows, each read by the class of its first byte and given back its fields. -/
theorem decodeReadsWhatEncodeWrites : Obligations.DecodeReadsWhatEncodeWrites := by
  intro i _
  cases i with
  | data d => rw [encode, decode, decodeByte_dataByteOf]
  | stNoteOff c | stNoteOn c | stPolyp c | stCc c | stPc c | stChanp c | stPb c =>
    simp [encode, decode, decodeByte, isData_statusByteOf, highNibble_statusByteOf, lowNibble_statusByteOf]
  | polyp c | chanp c =>
    simp [encode, decode, decodeMessage, decodeM1, isData_statusByteOf, highNibble_statusByteOf, lowNibble_statusByteOf]
  | syscom low | rt low => revert low; decide
  | rs1 x => simp [encode, decode, decodeMessage, decodeM1, isData_dataByteOf, dataField_dataByteOf]
  | rs2 x y =>
    simp [encode, decode, decodeMessage, decodeM2, isStatus_dataByteOf, isData_dataByteOf, dataField_dataByteOf]
  | pc c p =>
    simp [encode, decode, decodeMessage, decodeM2, isStatus_dataByteOf, isData_statusByteOf, highNibble_statusByteOf,
      lowNibble_statusByteOf, dataField_dataByteOf]
  | noteOff c x y | noteOn c x y | cc c x y | pb c x y =>
    simp [encode, decode, decodeMessage, decodeM3, isStatus_dataByteOf, highNibble_statusByteOf,
      lowNibble_statusByteOf, dataField_dataByteOf]
  | sysF0 | sysF1 | sysF2 | sysF3 | sysF4 | sysF5 | sysF6 | sysF7 => rfl
  | rtF8 | rtF9 | rtFA | rtFB | rtFC | rtFD | rtFE | rtFF => rfl

/-- Settles O2: a byte item by `encode_decodeByte`, a message unit by its length. -/
theorem encodeWritesWhatDecodeReads : Obligations.EncodeWritesWhatDecodeReads := by
  intro u i h
  cases u with
  | byte b => cases h; exact encode_decodeByte b
  | message bs => exact encode_of_decodeMessage h

/-- Settles O3: a finite fact about the 256 bytes. -/
theorem everyByteHasItsRow : Obligations.EveryByteHasItsRow := by
  unfold Obligations.EveryByteHasItsRow
  decide

/-- Settles O4: the ten words are evaluated. -/
theorem tableWordsDecode : Obligations.TableWordsDecode := by
  unfold Obligations.TableWordsDecode
  decide

end Sys2Proof.Encoding
end

section
/-! The parser as a whole (R121 to R144): what each rule of a data byte does, said once, and from it the invariant of R26,
the moves of the two-state view, running status, and the transparency of real-time bytes. -/

namespace Sys2Proof.ParserRules

open Sys2Proof.Machine Sys2Proof.Laws

/-! ### The byte classes (R90, R91) -/

theorem isStatus_iff : ∀ b : Byte, isStatus b = true ↔ 0x80 ≤ b.toNat := by decide

theorem isData_iff : ∀ b : Byte, isData b = true ↔ b.toNat < 0x80 := by decide

/-- What one byte makes of `P`, by the four classes of R121. -/
theorem parse_cases (p : Parser) (b : Byte) :
    (0xF8 ≤ b.toNat ∧ parse p b = (p, none)) ∨
    ((0xF0 ≤ b.toNat ∧ b.toNat < 0xF8) ∧ parse p b = (Parser.reset, none)) ∨
    ((0x80 ≤ b.toNat ∧ b.toNat < 0xF0) ∧ parse p b = (statusParser (highNibble b) (lowNibble b), none)) ∨
    (b.toNat < 0x80 ∧ parse p b = parseData p (dataField b)) := by
  by_cases hrt : 0xF8 ≤ b.toNat
  · exact .inl ⟨hrt, parse_realTime p b hrt⟩
  by_cases hsys : 0xF0 ≤ b.toNat
  · exact .inr (.inl ⟨⟨hsys, by omega⟩, parse_systemCommon p b hsys (by omega)⟩)
  by_cases hst : 0x80 ≤ b.toNat
  · exact .inr (.inr (.inl ⟨⟨hst, by omega⟩, parse_status p b (by omega) ((isStatus_iff b).mpr hst)⟩))
  · exact .inr (.inr (.inr ⟨by omega, parse_data p b ((isData_iff b).mpr (by omega))⟩))

/-! ### The rules of a data byte (R132 to R134) -/

section DataByte

variable {p : Parser} (d : BitVec 7)

@[simp] theorem store_rs : (store p d).rs = p.rs := by unfold store; split <;> rfl
@[simp] theorem store_channel : (store p d).channel = p.channel := by unfold store; split <;> rfl
@[simp] theorem store_command : (store p d).command = p.command := by unfold store; split <;> rfl
@[simp] theorem store_expected : (store p d).expected = p.expected := by unfold store; split <;> rfl
@[simp] theorem store_received : (store p d).received = p.received := by unfold store; split <;> rfl

/-- The first data byte is `data1` (R134). -/
theorem store_first (h : p.received = 0) : store p d = { p with data1 := d } := if_pos h

/-- The second data byte is `data2` (R134). -/
theorem store_second (h : p.received ≠ 0) : store p d = { p with data2 := d } := if_neg h

theorem parseData_of_idle (h : p.rs = 0) : parseData p d = (p, none) := if_pos h

theorem parseData_of_none_expected (h : p.expected = 0) : parseData p d = (p, none) := by
  unfold parseData
  split_ifs <;> rfl

theorem parseData_eq_accumulate (hrs : p.rs ≠ 0) (he : p.expected ≠ 0) : parseData p d = accumulate p d := by
  rw [parseData, if_neg hrs, if_neg he]

/-- The data byte that makes the count reach `P.expected` completes the message (R134). -/
theorem parseData_completes (hrs : p.rs ≠ 0) (hr : p.received.toNat + 1 = p.expected.toNat) :
    parseData p d = ({ store p d with received := 0 }, eventOf (store p d)) := by
  have he : p.expected ≠ 0 := by rintro h; simp [h] at hr
  rw [parseData_eq_accumulate d hrs he, accumulate, if_pos hr]

/-- Any other data byte under a status that expects some is held (R134). -/
theorem parseData_holds (hrs : p.rs ≠ 0) (he : p.expected ≠ 0) (hr : p.received.toNat + 1 ≠ p.expected.toNat) :
    parseData p d = ({ store p d with received := p.received + 1 }, none) := by
  rw [parseData_eq_accumulate d hrs he, accumulate, if_neg hr]

end DataByte

/-- A status that expects data bytes is one of the five supported kinds, and its Event carries its kind and channel (R93,
R94, R100). -/
theorem eventOf_of_expected {p : Parser} (h : expectedOf p.command ≠ 0) :
    ∃ e, eventOf p = some e ∧ eventCommand e = p.command ∧ eventChannel e = p.channel := by
  unfold expectedOf at h
  unfold eventOf
  split at h
  case h_6 => exact absurd rfl h
  all_goals
    next hc => rw [hc]; exact ⟨_, rfl, rfl, rfl⟩

/-! ### The invariant of R26 -/

theorem reset_inv : (Parser.reset).Inv where
  idle _ := rfl
  status h := absurd rfl h
  channel h := absurd rfl h
  command h := absurd rfl h
  expected h := absurd rfl h
  received h := absurd rfl h

theorem statusParser_inv {b : Byte} (h : 0x80 ≤ b.toNat) (h' : b.toNat < 0xF0) :
    (statusParser (highNibble b) (lowNibble b)).Inv := by
  have hrs : (statusParser (highNibble b) (lowNibble b)).rs = b := statusByteOf_nibbles b
  constructor
  case idle => intro h0; rw [hrs] at h0; simp [h0] at h
  case status => intro _; rw [hrs]; omega
  case channel => intro _; rw [hrs]; rfl
  case command => intro _; rw [hrs]; rfl
  case expected => intro _; rfl
  case received => intro _; simp [statusParser]

/-- Under the invariant the count of a status that expects data bytes is below it (R26). -/
theorem received_lt {p : Parser} (hp : p.Inv) (hrs : p.rs ≠ 0) (he : p.expected ≠ 0) :
    p.received.toNat < p.expected.toNat := by
  have hr := hp.received hrs
  have he' : p.expected.toNat ≠ 0 := fun h => he (BitVec.eq_of_toNat_eq h)
  omega

theorem succ_received {p : Parser} (hr : p.received.toNat + 1 < p.expected.toNat) :
    (p.received + 1).toNat = p.received.toNat + 1 := by
  have hlt := p.expected.isLt
  have hone : (1 : BitVec 2).toNat = 1 := rfl
  rw [BitVec.toNat_add, hone]
  omega

/-- A change of the count and the data keeps the invariant while the count stays below what is expected. -/
theorem Inv.of_same_status {p q : Parser} (hp : p.Inv) (hrs : p.rs ≠ 0) (h1 : q.rs = p.rs) (h2 : q.channel = p.channel)
    (h3 : q.command = p.command) (h4 : q.expected = p.expected) (hr : q.received.toNat < max q.expected.toNat 1) :
    q.Inv := by
  constructor
  case idle => intro h; rw [h1] at h; exact absurd h hrs
  case status => rw [h1]; exact hp.status
  case channel => rw [h1, h2]; exact hp.channel
  case command => rw [h1, h3]; exact hp.command
  case expected => rw [h1, h3, h4]; exact hp.expected
  case received => exact fun _ => hr

/-- A data byte under a status that expects some either completes the message, with its Event, or is held (R134). -/
theorem parseData_round {p : Parser} (hp : p.Inv) (hrs : p.rs ≠ 0) (he : p.expected ≠ 0) (d : BitVec 7) :
    (p.received.toNat + 1 = p.expected.toNat ∧ (parseData p d).1.received.toNat = 0 ∧
      ∃ e, (parseData p d).2 = some e ∧ eventCommand e = p.command ∧ eventChannel e = p.channel) ∨
    (p.received.toNat + 1 < p.expected.toNat ∧ (parseData p d).1.received.toNat = p.received.toNat + 1 ∧
      (parseData p d).2 = none) := by
  by_cases hr : p.received.toNat + 1 = p.expected.toNat
  · have hex : expectedOf (store p d).command ≠ 0 := by rwa [store_command, ← hp.expected hrs]
    obtain ⟨e, hev, hcmd, hchan⟩ := eventOf_of_expected hex
    rw [store_command] at hcmd
    rw [store_channel] at hchan
    rw [parseData_completes d hrs hr]
    exact .inl ⟨hr, rfl, e, hev, hcmd, hchan⟩
  · have hlt : p.received.toNat + 1 < p.expected.toNat := by have := received_lt hp hrs he; omega
    rw [parseData_holds d hrs he hr]
    exact .inr ⟨hlt, succ_received hlt, rfl⟩

theorem parseData_inv {p : Parser} (hp : p.Inv) (d : BitVec 7) : (parseData p d).1.Inv := by
  by_cases hrs : p.rs = 0
  · rw [parseData_of_idle d hrs]; exact hp
  by_cases he : p.expected = 0
  · rw [parseData_of_none_expected d he]; exact hp
  · obtain ⟨krs, kch, kcm, kex⟩ := parseData_keeps p d
    refine Inv.of_same_status hp hrs krs kch kcm kex ?_
    rw [kex]
    rcases parseData_round hp hrs he d with ⟨-, hr, -⟩ | ⟨hlt, hr, -⟩ <;> omega

theorem parse_inv {p : Parser} (hp : p.Inv) (b : Byte) : (parse p b).1.Inv := by
  rcases parse_cases p b with ⟨-, h⟩ | ⟨-, h⟩ | ⟨⟨hlo, hhi⟩, h⟩ | ⟨-, h⟩ <;> rw [h]
  · exact hp
  · exact reset_inv
  · exact statusParser_inv hlo hhi
  · exact parseData_inv hp _

/-! ### The two-state view (R27) -/

theorem view_of_idle {p : Parser} (h : p.rs = 0) : p.view = .awaitingStatus := if_pos h

theorem view_of_status {p : Parser} (h : p.rs ≠ 0) : p.view = .accumulating p.expected.toNat p.received.toNat := if_neg h

theorem view_awaiting_iff {p : Parser} : p.view = .awaitingStatus ↔ p.rs = 0 := by
  by_cases h : p.rs = 0
  · simp [view_of_idle h, h]
  · simpa [view_of_status h] using h

theorem view_accumulating_iff {p : Parser} {e r : Nat} :
    p.view = .accumulating e r ↔ p.rs ≠ 0 ∧ p.expected.toNat = e ∧ p.received.toNat = r := by
  by_cases h : p.rs = 0
  · simp [view_of_idle h, h]
  · rw [view_of_status h, View.accumulating.injEq]
    exact (and_iff_right h).symm

/-! ### Byte sequences -/

theorem parseAll_cons (p : Parser) (b : Byte) (bs : List Byte) :
    parseAll p (b :: bs) = ((parseAll (parse p b).1 bs).1, (parse p b).2.toList ++ (parseAll (parse p b).1 bs).2) := rfl

theorem parseAll_realTime {b : Byte} (h : isRealTime b = true) (p : Parser) (bs : List Byte) :
    parseAll p (b :: bs) = parseAll p bs := by
  rw [parseAll_cons, parse_realTime p b (of_decide_eq_true h)]
  rfl

/-- Leaving the real-time bytes out changes nothing (R122). -/
theorem parseAll_filter (p : Parser) (bs : List Byte) :
    parseAll p (bs.filter fun b => !isRealTime b) = parseAll p bs := by
  induction bs generalizing p with
  | nil => rfl
  | cons b bs ih =>
    cases hb : isRealTime b with
    | true => rw [List.filter_cons_of_neg (by simp [hb]), parseAll_realTime hb, ih]
    | false => rw [List.filter_cons_of_pos (by simp [hb]), parseAll_cons, parseAll_cons, ih]

/-- Data bytes under a running status that expects some, from any count: the status stays, the count goes round, and one
Event of its kind and channel is emitted each time round (R134, R140). -/
theorem parseAll_dataBytes (p : Parser) (ds : List (BitVec 7)) (hp : p.Inv) (hrs : p.rs ≠ 0) (he : p.expected ≠ 0) :
    ((parseAll p (ds.map dataByteOf)).1.rs = p.rs ∧
      (parseAll p (ds.map dataByteOf)).1.channel = p.channel ∧
      (parseAll p (ds.map dataByteOf)).1.command = p.command ∧
      (parseAll p (ds.map dataByteOf)).1.expected = p.expected) ∧
    (parseAll p (ds.map dataByteOf)).1.received.toNat = (p.received.toNat + ds.length) % p.expected.toNat ∧
    (parseAll p (ds.map dataByteOf)).2.length = (p.received.toNat + ds.length) / p.expected.toNat ∧
    ∀ e ∈ (parseAll p (ds.map dataByteOf)).2, eventCommand e = p.command ∧ eventChannel e = p.channel := by
  induction ds generalizing p with
  | nil =>
    have hlt := received_lt hp hrs he
    simp [parseAll, Nat.mod_eq_of_lt hlt, Nat.div_eq_of_lt hlt]
  | cons d ds ih =>
    obtain ⟨krs, kch, kcm, kex⟩ := parseData_keeps p d
    obtain ⟨⟨irs, ich, icm, iex⟩, ircv, ilen, iev⟩ :=
      ih (parseData p d).1 (parseData_inv hp d) (by rwa [krs]) (by rwa [kex])
    rw [List.map_cons, parseAll_cons, parse_dataByteOf]
    rw [krs] at irs
    rw [kch] at ich iev
    rw [kcm] at icm iev
    rw [kex] at iex ircv ilen
    refine ⟨⟨irs, ich, icm, iex⟩, ?_⟩
    rcases parseData_round hp hrs he d with ⟨hr, hzero, ev, hev, hcmd, hchan⟩ | ⟨-, hsucc, hnone⟩
    · have hround : p.received.toNat + (d :: ds).length = ds.length + p.expected.toNat := by
        rw [List.length_cons]; omega
      rw [hzero, Nat.zero_add] at ircv ilen
      rw [hround, Nat.add_mod_right, Nat.add_div_right _ (by omega), hev]
      refine ⟨ircv, by simp [ilen, Nat.add_comm], ?_⟩
      rw [Option.toList_some, List.singleton_append, List.forall_mem_cons]
      exact ⟨⟨hcmd, hchan⟩, iev⟩
    · have hlen : p.received.toNat + 1 + ds.length = p.received.toNat + (d :: ds).length := by
        rw [List.length_cons]; omega
      rw [hsucc, hlen] at ircv ilen
      rw [hnone]
      exact ⟨ircv, ilen, iev⟩

/-! ### The obligations -/

/-- Settles O8: the rules of `parse` in the order of R121, and of a data byte in the order of R132 to R134. -/
theorem parseFollowsTheByteClasses : Obligations.ParseFollowsTheByteClasses := by
  intro p b
  have hdata : b.toNat < 0x80 → parse p b = parseData p (dataField b) :=
    fun h => parse_data p b ((isData_iff b).mpr h)
  refine ⟨parse_realTime p b, parse_systemCommon p b, ?_, ?_, ?_, ?_⟩
  · intro hlo hhi
    rw [parse_status p b hhi ((isStatus_iff b).mpr hlo), statusParser, statusByteOf_nibbles]
    rfl
  · intro hb hrs
    rw [hdata hb, parseData_of_idle _ hrs]
  · intro hb _ he
    rw [hdata hb, parseData_of_none_expected _ he]
  · intro hb hrs he
    rw [hdata hb, parseData_eq_accumulate _ hrs he]
    rfl

/-- Settles O30: both sequences parse as what is left of them without real-time bytes. -/
theorem realTimeBytesAreTransparent : Obligations.RealTimeBytesAreTransparent := by
  intro p bs bs' h
  rw [← parseAll_filter p bs, h, parseAll_filter]

/-- Settles O31: `reset_inv`, and `parse_inv` by the byte classes. -/
theorem parserInvariantIsKept : Obligations.ParserInvariantIsKept :=
  ⟨reset_inv, fun _ b hp => parse_inv hp b⟩

/-- Settles O32: by the byte classes, and for a data byte by the rule the view selects. -/
theorem parserViewMoves : Obligations.ParserViewMoves := by
  intro p b hp
  have hdata : b.toNat ≤ 0x7F → parse p b = parseData p (dataField b) :=
    fun h => parse_data p b ((isData_iff b).mpr (by omega))
  refine ⟨?_, ?_, ?_, ?_, ?_, ?_, ?_⟩
  · intro h
    rw [parse_realTime p b h]
    exact ⟨rfl, rfl⟩
  · intro hlo hhi
    rw [parse_systemCommon p b hlo (by omega)]
    exact ⟨view_of_idle rfl, rfl⟩
  · intro hlo hhi
    have hinv := statusParser_inv hlo (by omega)
    have hrs : (statusParser (highNibble b) (lowNibble b)).rs ≠ 0 := by
      intro h
      have hb : b = 0 := (statusByteOf_nibbles b).symm.trans h
      simp [hb] at hlo
    rw [parse_status p b (by omega) ((isStatus_iff b).mpr hlo)]
    exact ⟨view_of_status hrs, rfl⟩
  · intro hb hv
    rw [hdata hb, parseData_of_idle _ (view_awaiting_iff.mp hv)]
    exact ⟨hv, rfl⟩
  · intro r hb hv
    obtain ⟨-, he, -⟩ := view_accumulating_iff.mp hv
    rw [hdata hb, parseData_of_none_expected _ (BitVec.eq_of_toNat_eq he)]
    exact ⟨rfl, rfl⟩
  · intro e r hb hv hlt
    obtain ⟨hrs, he, hr⟩ := view_accumulating_iff.mp hv
    have hex : p.expected ≠ 0 := by rintro h; simp [h] at he; omega
    obtain ⟨krs, -, -, kex⟩ := parseData_keeps p (dataField b)
    rw [hdata hb, view_accumulating_iff, krs, kex]
    rcases parseData_round hp hrs hex (dataField b) with ⟨hc, -⟩ | ⟨-, hsucc, hnone⟩
    · omega
    · exact ⟨⟨hrs, he, hsucc.trans (by omega)⟩, hnone⟩
  · intro e r hb hv heq
    obtain ⟨hrs, he, hr⟩ := view_accumulating_iff.mp hv
    have hex : p.expected ≠ 0 := by rintro h; simp [h] at he; omega
    obtain ⟨krs, -, -, kex⟩ := parseData_keeps p (dataField b)
    rw [hdata hb, view_accumulating_iff, krs, kex]
    rcases parseData_round hp hrs hex (dataField b) with ⟨-, hzero, ev, hev, -⟩ | ⟨hc, -⟩
    · exact ⟨⟨hrs, he, hzero⟩, by rw [hev]; rfl⟩
    · omega

/-- Settles O33: `parseAll_dataBytes` from the count 0; of the byte classes only two write the running status. -/
theorem runningStatusPersists : Obligations.RunningStatusPersists := by
  constructor
  · intro p ds hp hrs he hr
    obtain ⟨⟨krs, kch, kcm, kex⟩, hrcv, hlen, hev⟩ := parseAll_dataBytes p ds hp hrs he
    rw [hr] at hrcv hlen
    exact ⟨krs, kch, kcm, kex, by simpa using hrcv, by simpa using hlen, hev⟩
  · intro p b hne
    rcases parse_cases p b with ⟨-, h⟩ | ⟨hb, -⟩ | ⟨hb, -⟩ | ⟨-, h⟩
    · rw [h] at hne; exact absurd rfl hne
    · omega
    · omega
    · rw [h] at hne; exact absurd (parseData_keeps p _).1 hne

/-- Settles O34: neither class emits or keeps data, and a system-common byte gives one `P` from all. -/
theorem cutMessagesAreLost : Obligations.CutMessagesAreLost := by
  constructor
  · intro p b hlo hhi
    rcases parse_cases p b with ⟨hb, -⟩ | ⟨-, h⟩ | ⟨-, h⟩ | ⟨hb, -⟩
    · omega
    · rw [h]; exact ⟨rfl, rfl, rfl, rfl⟩
    · rw [h]; exact ⟨rfl, rfl, rfl, rfl⟩
    · omega
  · intro p q b bs hlo hhi
    rw [parseAll_cons, parseAll_cons, parse_systemCommon p b hlo (by omega), parse_systemCommon q b hlo (by omega)]

end Sys2Proof.ParserRules
end

section
/-! The rows of the table through `exec` (R123 to R139): a data byte is held or completes its message, an elided form is its
data bytes, and a whole message emits its one Event. -/

namespace Sys2Proof.Rows

open Sys2Proof.Machine Sys2Proof.Laws Sys2Proof.ParserRules

section Rules

variable (s : State)

/-! ### One data byte -/

theorem dataByte_of_noEvent {d : BitVec 7} {q : Parser} (h : parseData s.parser d = (q, none)) :
    dataByte d s = s.setParser q := by
  rw [dataByte, h]; rfl

theorem dataByte_of_event {d : BitVec 7} {q : Parser} {e : Event} (h : parseData s.parser d = (q, some e)) :
    dataByte d s = emit e (s.setParser q) := by
  rw [dataByte, h]; rfl

/-- A data byte with no use under the running status (R132, R133). -/
theorem dataByte_unusable (d : BitVec 7) (h : s.parser.rs = 0 ∨ s.parser.expected = 0) : dataByte d s = s := by
  have hp : parseData s.parser d = (s.parser, none) := h.elim (parseData_of_idle d) (parseData_of_none_expected d)
  exact dataByte_of_noEvent s hp

/-- The first of two data bytes is held in `data1` (R134). -/
theorem dataByte_first (d : BitVec 7) (hrs : s.parser.rs ≠ 0) (he : s.parser.expected = 2) (hr : s.parser.received = 0) :
    dataByte d s = s.setParser { s.parser with data1 := d, received := 1 } := by
  refine dataByte_of_noEvent s ?_
  rw [parseData_holds d hrs (by simp [he]) (by simp [he, hr]), store_first d hr, hr]
  rfl

/-- The second of two data bytes goes to `data2` and completes the message (R134). -/
theorem dataByte_second (d : BitVec 7) {e : Event} (hrs : s.parser.rs ≠ 0) (hx : s.parser.expected = 2)
    (hr : s.parser.received = 1) (he : eventOf { s.parser with data2 := d } = some e) :
    dataByte d s = emit e (s.setParser { s.parser with data2 := d, received := 0 }) := by
  refine dataByte_of_event s ?_
  rw [parseData_completes d hrs (by simp [hx, hr]), store_second d (by simp [hr]), he]

/-- The one data byte of a status that expects one goes to `data1` and completes the message (R134). -/
theorem dataByte_only (d : BitVec 7) {e : Event} (hrs : s.parser.rs ≠ 0) (hx : s.parser.expected = 1)
    (hr : s.parser.received = 0) (he : eventOf { s.parser with data1 := d } = some e) :
    dataByte d s = emit e (s.setParser { s.parser with data1 := d, received := 0 }) := by
  refine dataByte_of_event s ?_
  rw [parseData_completes d hrs (by simp [hx, hr]), store_first d hr, he]

/-- Two data bytes from the count 0 complete one message (R99, R134). -/
theorem dataByte_pair (x y : BitVec 7) {e : Event} (hrs : s.parser.rs ≠ 0) (hx : s.parser.expected = 2)
    (hr : s.parser.received = 0) (he : eventOf { s.parser with data1 := x, data2 := y } = some e) :
    dataByte y (dataByte x s) = emit e (s.setParser { s.parser with data1 := x, data2 := y }) := by
  rw [dataByte_first s x hrs hx hr, dataByte_second _ y (by exact hrs) (by exact hx) rfl (by exact he), ← hr]
  rfl

theorem exec_oneData (d : BitVec 7) : ∀ i ∈ [Instr.data d, .rs1 d], exec i s = .next (dataByte d s) := by
  simp only [List.forall_mem_cons]
  exact ⟨exec_data s d, exec_rs1 s d, List.forall_mem_nil _⟩

/-! ### The Event of a parser state, by its command (R135 to R139) -/

section Events

variable {p : Parser}

theorem eventOf_noteOff (h : p.command = 0x8) : eventOf p = some (.noteOff p.data1 p.channel) := by
  rw [eventOf, h]; rfl

theorem eventOf_noteOn (h : p.command = 0x9) : eventOf p = some (.noteOn p.data1 p.data2 p.channel) := by
  rw [eventOf, h]; rfl

theorem eventOf_control (h : p.command = 0xB) : eventOf p = some (.controlChange p.data1 p.data2 p.channel) := by
  rw [eventOf, h]; rfl

theorem eventOf_program (h : p.command = 0xC) : eventOf p = some (.programChange p.data1 p.channel) := by
  rw [eventOf, h]; rfl

theorem eventOf_bend (h : p.command = 0xE) :
    eventOf p = some (.pitchBend (bendValue p.data1 p.data2) p.channel) := by
  rw [eventOf, h]; rfl

end Events

/-! ### The message rows (R95) -/

theorem exec_cc_emit (c : BitVec 4) (k v : BitVec 7) :
    exec (.cc c k v) s = .next (emit (.controlChange k v c) (s.setParser (Release.messageParser 0xB c k v))) := by
  rw [exec_cc, Release.dataByte_dataByte_statusByte s rfl (by decide)]
  rfl

theorem exec_pb_emit (c : BitVec 4) (l m : BitVec 7) :
    exec (.pb c l m) s = .next (emit (.pitchBend (bendValue l m) c) (s.setParser (Release.messageParser 0xE c l m))) := by
  rw [exec_pb, Release.dataByte_dataByte_statusByte s rfl (by decide)]
  rfl

theorem exec_pc_emit (c : BitVec 4) (p : BitVec 7) :
    exec (.pc c p) s = .next (emit (.programChange p c) (s.setParser ⟨0xC#4 ++ c, c, 0xC, 1, 0, p, 0⟩)) := by
  have hrs : (statusParser 0xC c).rs ≠ 0 := statusByteOf_ne_zero _ c (by decide)
  rw [exec_pc, dataByte_only (statusByte 0xC c s) p hrs rfl rfl (eventOf_program rfl)]
  rfl

/-- An Event with no active backend (R170). -/
theorem dispatch_without_backend (e : Event) (h : s.active = none) : dispatch e s = s := by
  rw [dispatch, h]

end Rules

/-! ### The obligations -/

/-- Settles O9: each row writes `statusParser` of its own command. -/
theorem statusBytesSetTheParser : Obligations.StatusBytesSetTheParser := by
  intro c s
  exact ⟨exec_stNoteOff s c, exec_stNoteOn s c, exec_stPolyp s c, exec_stCc s c, exec_stPc s c, exec_stChanp s c,
    exec_stPb s c, exec_polyp s c, exec_chanp s c⟩

/-- Settles O10: the class row and the eight named bytes run `systemCommon`. -/
theorem systemCommonBytesResetTheParser : Obligations.SystemCommonBytesResetTheParser := by
  intro low s i hi
  rcases List.mem_cons.mp hi with rfl | hi
  · exact exec_syscom s low
  · exact ByteStep.exec_systemCommon s i hi

/-- Settles O12: by `dataByte_unusable`, twice for RS2. -/
theorem unusableDataBytesChangeNothing : Obligations.UnusableDataBytesChangeNothing := by
  intro d x y s h
  rw [exec_data, exec_rs1, exec_rs2, dataByte_unusable s d h, dataByte_unusable s x h, dataByte_unusable s y h]
  exact ⟨rfl, rfl, rfl⟩

/-- Settles O13: by `dataByte_first`. -/
theorem firstDataByteIsHeld : Obligations.FirstDataByteIsHeld := by
  intro d s hrs he hr
  rw [exec_data, exec_rs1, dataByte_first s d hrs he hr]
  exact ⟨rfl, rfl⟩

/-- Settles O14: the completing byte is the second of two, or the only one under a ProgramChange. -/
theorem lastDataByteEmitsItsEvent : Obligations.LastDataByteEmitsItsEvent := by
  intro d s hrs i hi
  rw [exec_oneData s d i hi]
  refine ⟨?_, ?_, ?_, ?_⟩ <;> intro hc hx hr
  · rw [dataByte_second s d hrs hx hr (eventOf_noteOff hc)]; rfl
  · rw [dataByte_second s d hrs hx hr (eventOf_noteOn hc)]; rfl
  · rw [dataByte_second s d hrs hx hr (eventOf_control hc)]; rfl
  · rw [dataByte_only s d hrs hx hr (eventOf_program hc)]; rfl

/-- Settles O15: an elided form runs its data bytes by definition; the two of RS2 by `dataByte_pair`. -/
theorem elidedMessagesEmitTheirEvent : Obligations.ElidedMessagesEmitTheirEvent := by
  refine ⟨fun x s => rfl, ?_, ?_⟩
  · intro x y s t h
    cases h
    rfl
  · intro x y s hrs hx hr
    rw [exec_rs2]
    refine ⟨?_, ?_, ?_, ?_⟩ <;> intro hc
    · rw [dataByte_pair s x y hrs hx hr (eventOf_noteOff hc)]; rfl
    · rw [dataByte_pair s x y hrs hx hr (eventOf_noteOn hc)]; rfl
    · rw [dataByte_pair s x y hrs hx hr (eventOf_control hc)]; rfl
    · rw [dataByte_pair s x y hrs hx hr (eventOf_bend hc)]; rfl

/-- Settles O16: each message row emits its Event from the state with its `P`. -/
theorem messageRowsEmitTheirEvent : Obligations.MessageRowsEmitTheirEvent := by
  intro s c x y
  exact ⟨Release.exec_noteOff_emit s c x y, Release.exec_noteOn_emit s c x y, exec_cc_emit s c x y,
    exec_pc_emit s c x, exec_pb_emit s c x y⟩

/-- Settles O17: the dispatch of `MessageRowsEmitTheirEvent` changes nothing. -/
theorem eventsWithoutBackendAreDropped : Obligations.EventsWithoutBackendAreDropped := by
  intro s h
  refine ⟨fun e => dispatch_without_backend s e h, fun c x y => ?_⟩
  obtain ⟨hoff, hon, hcc, hpc, hpb⟩ := messageRowsEmitTheirEvent s c x y
  rw [hoff, hon, hcc, hpc, hpb]
  exact ⟨congrArg _ (dispatch_without_backend _ _ h), congrArg _ (dispatch_without_backend _ _ h),
    congrArg _ (dispatch_without_backend _ _ h), congrArg _ (dispatch_without_backend _ _ h),
    congrArg _ (dispatch_without_backend _ _ h)⟩

/-- The value of a bend as the two data bytes' numbers (R98). -/
theorem bendValue_eq (d1 d2 : BitVec 7) : bendValue d1 d2 = ((128 * d2.toNat + d1.toNat : Nat) : Int) - 8192 := by
  rw [bendValue, BitVec.toNat_append, ← Nat.shiftLeft_add_eq_or_of_lt d1.isLt, Nat.shiftLeft_eq, Nat.mul_comm]

/-- Settles O35: the value by `bendValue_eq`, whose two data bytes are the quotient and remainder by 128; the Event by
`dataByte_second`. -/
theorem pitchBendValueIsOffsetBinary : Obligations.PitchBendValueIsOffsetBinary := by
  refine ⟨fun d1 d2 => ⟨?_, ?_⟩, ?_, ?_⟩
  · rw [bendValue, BitVec.toNat_append]
  · have h1 := d1.isLt
    have h2 := d2.isLt
    rw [bendValue_eq]
    omega
  · intro v hlo hhi
    refine ⟨BitVec.ofNat 7 ((v + 8192).toNat % 128), BitVec.ofNat 7 ((v + 8192).toNat / 128), ?_⟩
    rw [bendValue_eq, BitVec.toNat_ofNat, BitVec.toNat_ofNat]
    omega
  · intro d s hrs hc hx hr i hi
    rw [exec_oneData s d i hi, dataByte_second s d hrs hx hr (eventOf_bend hc)]
    rfl

end Sys2Proof.Rows
end

section
/-! Turns and steps over bytes (R120, R187): every instruction does what its bytes do one after another (`takeBytes`), and
so a step on a message is its turns, and its byte steps. What a byte does never depends on the items still to come. -/

namespace Sys2Proof.Bytes

open Sys2Proof.Machine Sys2Proof.Laws

/-- The block's step for each byte of a sequence, in order (R120). -/
def takeBytes (bs : List Byte) (s : State) : State := bs.foldl (fun s b => takeByte b s) s

theorem takeBytes_nil (s : State) : takeBytes [] s = s := rfl

theorem takeBytes_cons (b : Byte) (bs : List Byte) (s : State) : takeBytes (b :: bs) s = takeBytes bs (takeByte b s) := rfl

section Rules

variable (s : State)

/-! ### Instructions as their bytes -/

/-- An instruction written as a byte item does what the block's step for that byte does. -/
theorem exec_of_encode_byte {i : Instr} {b : Byte} (h : encode i = .byte b) : exec i s = .next (takeByte b s) := by
  have hdec : decode (.byte b) = .ok i := h ▸ Encoding.decodeReadsWhatEncodeWrites i rfl
  have hi : decodeByte b = i := Except.ok.inj hdec
  rw [← hi, ByteStep.exec_decodeByte]

theorem takeByte_dataByteOf (d : BitVec 7) : takeByte (dataByteOf d) s = dataByte d s := by
  rw [takeByte, parse_dataByteOf, dataByte]

/-- The byte of a channel-voice status runs `statusByte` (R124). -/
theorem takeByte_statusByteOf (command c : BitVec 4) (h : command.getLsbD 3 = true) (h' : command ≠ 0xF) :
    takeByte (statusByteOf command c) s = statusByte command c s := by
  have hlt : ∀ command c : BitVec 4, command ≠ 0xF → (statusByteOf command c).toNat < 0xF0 := by decide
  have hs : isStatus (statusByteOf command c) = true := by
    simpa [isData, isStatus] using (Encoding.isData_statusByteOf command c).trans (congrArg not h)
  rw [takeByte, parse_status _ _ (hlt command c h') hs, highNibble_statusByteOf, lowNibble_statusByteOf]
  rfl

theorem takeByte_systemCommon (low : BitVec 3) : takeByte (0b11110#5 ++ low) s = systemCommon s := by
  have hrange : ∀ low : BitVec 3, 0xF0 ≤ (0b11110#5 ++ low).toNat ∧ (0b11110#5 ++ low).toNat < 0xF8 := by decide
  rw [takeByte, parse_systemCommon _ _ (hrange low).1 (hrange low).2]
  rfl

theorem takeByte_realTime (low : BitVec 3) : takeByte (0b11111#5 ++ low) s = realTime s := by
  have hrange : ∀ low : BitVec 3, 0xF8 ≤ (0b11111#5 ++ low).toNat := by decide
  rw [takeByte, parse_realTime _ _ (hrange low)]
  rfl

/-- Every instruction does what its bytes do, one after another (R95, R99, R120). -/
theorem exec_eq_takeBytes (i : Instr) : exec i s = .next (takeBytes (encodeBytes i) s) := by
  have hst : ∀ command c, command.getLsbD 3 = true → command ≠ 0xF →
      ∀ s : State, takeByte (statusByteOf command c) s = statusByte command c s :=
    fun command c h h' s => takeByte_statusByteOf s command c h h'
  have hbyte : ∀ b, encode i = .byte b → exec i s = .next (takeBytes (encodeBytes i) s) := by
    intro b h
    rw [exec_of_encode_byte s h, encodeBytes, h]
    rfl
  cases i with
  | data d => exact hbyte _ rfl
  | stNoteOff c | stNoteOn c | stPolyp c | stCc c | stPc c | stChanp c | stPb c => exact hbyte _ rfl
  | sysF0 | sysF1 | sysF2 | sysF3 | sysF4 | sysF5 | sysF6 | sysF7 => exact hbyte _ rfl
  | rtF8 | rtF9 | rtFA | rtFB | rtFC | rtFD | rtFE | rtFF => exact hbyte _ rfl
  | syscom low => exact congrArg _ (takeByte_systemCommon s low).symm
  | rt low => exact congrArg _ (takeByte_realTime s low).symm
  | polyp c => exact congrArg _ (hst 0xA c rfl (by decide) s).symm
  | chanp c => exact congrArg _ (hst 0xD c rfl (by decide) s).symm
  | rs1 x => exact congrArg _ (takeByte_dataByteOf s x).symm
  | rs2 x y =>
    rw [exec_rs2, ← takeByte_dataByteOf s, ← takeByte_dataByteOf]; rfl
  | pc c p =>
    rw [exec_pc, ← hst 0xC c rfl (by decide), ← takeByte_dataByteOf]; rfl
  | noteOff c x y =>
    rw [exec_noteOff, ← hst 0x8 c rfl (by decide), ← takeByte_dataByteOf, ← takeByte_dataByteOf]; rfl
  | noteOn c x y =>
    rw [exec_noteOn, ← hst 0x9 c rfl (by decide), ← takeByte_dataByteOf, ← takeByte_dataByteOf]; rfl
  | cc c x y =>
    rw [exec_cc, ← hst 0xB c rfl (by decide), ← takeByte_dataByteOf, ← takeByte_dataByteOf]; rfl
  | pb c x y =>
    rw [exec_pb, ← hst 0xE c rfl (by decide), ← takeByte_dataByteOf, ← takeByte_dataByteOf]; rfl

/-! ### The items still to come do not matter to a byte -/

section Input

variable (q : List Item)

theorem routeNoteOff_setInput (n : BitVec 7) (c : BitVec 4) :
    routeNoteOff n c (s.setInput q) = (routeNoteOff n c s).setInput q := by
  have hfind : findByNote n c (s.setInput q) = findByNote n c s := rfl
  unfold routeNoteOff
  rw [hfind]
  cases findByNote n c s <;> rfl

theorem routeNoteOn_setInput (n v : BitVec 7) (c : BitVec 4) :
    routeNoteOn n v c (s.setInput q) = (routeNoteOn n v c s).setInput q := by
  have hfind : findByNote n c (s.setInput q) = findByNote n c s := rfl
  unfold routeNoteOn
  rw [hfind]
  cases findByNote n c s <;> rfl

theorem routeControl_setInput (k v : BitVec 7) : routeControl k v (s.setInput q) = (routeControl k v s).setInput q := by
  have hfirst : firstActive (s.setInput q) = firstActive s := rfl
  have hcfg : (s.setInput q).cfg = s.cfg := rfl
  unfold routeControl onFirstActive
  rw [hfirst, hcfg]
  cases ccAction s.cfg k <;> cases firstActive s <;> rfl

theorem setPreset_setInput (p : Byte) : setPreset p (s.setInput q) = (setPreset p s).setInput q := by
  rw [setPreset_eq, setPreset_eq]; rfl

theorem setPitchBend_setInput (b : Int) : setPitchBend b (s.setInput q) = (setPitchBend b s).setInput q := by
  rw [setPitchBend_eq, setPitchBend_eq]; rfl

theorem routePsg_setInput (e : Event) : routePsg e (s.setInput q) = (routePsg e s).setInput q := by
  cases e with
  | noteOn n v c =>
    simp only [routePsg]
    split
    · exact routeNoteOff_setInput s q n c
    · exact routeNoteOn_setInput s q n v c
  | noteOff n c => exact routeNoteOff_setInput s q n c
  | controlChange k v _ => exact routeControl_setInput s q k v
  | programChange p _ => exact setPreset_setInput s q (wide p)
  | pitchBend b _ => exact setPitchBend_setInput s q b

theorem emit_setInput (e : Event) : emit e (s.setInput q) = (emit e s).setInput q := by
  have hact : ((s.setInput q).addEvent e).active = (s.addEvent e).active := rfl
  unfold emit dispatch
  rw [hact]
  cases (s.addEvent e).active with
  | none => rfl
  | some k => cases k; exact routePsg_setInput (s.addEvent e) q e

theorem takeByte_setInput (b : Byte) : takeByte b (s.setInput q) = (takeByte b s).setInput q := by
  have hp : (s.setInput q).parser = s.parser := rfl
  unfold takeByte deliver
  rw [hp]
  cases (parse s.parser b).2 with
  | none => rfl
  | some e => exact emit_setInput (s.setParser (parse s.parser b).1) q e

end Input

/-! ### Runs over byte items -/

/-- The items of a byte sequence put first, taken one a turn, are the block's steps for its bytes (R187). -/
theorem turns_byteItems (bs : List Byte) (rest : List Item) :
    turns bs.length (s.setInput (byteItems bs ++ rest)) = .next (takeBytes bs (s.setInput rest)) := by
  induction bs generalizing s with
  | nil => rfl
  | cons b bs ih =>
    have hturn : turn (s.setInput (byteItems (b :: bs) ++ rest)) =
        .next ((takeByte b s).setInput (byteItems bs ++ rest)) := by
      rw [turn_input _ (u := .byte b) (bs := []) (rest := byteItems bs ++ rest) rfl rfl, ByteStep.exec_decodeByte,
        ← takeByte_setInput]
      rfl
    rw [List.length_cons, turns, hturn, takeBytes_cons, takeByte_setInput]
    exact ih (takeByte b s)

theorem run_of_step {k : Nat} {s t : Sys2Proof.core.State} (h : Sys2Proof.core.step s = .next t) :
    Host.Core.run Sys2Proof.core (k + 1) s = Host.Core.run Sys2Proof.core k t := by
  rw [Host.Core.run, h]

/-- The same, taken one a step. -/
theorem run_byteItems (bs : List Byte) (rest : List Item) :
    Host.Core.run Sys2Proof.core bs.length (s.setInput (byteItems bs ++ rest)) =
      .next (takeBytes bs (s.setInput rest)) := by
  induction bs generalizing s with
  | nil => rfl
  | cons b bs ih =>
    have hstep : Sys2Proof.core.step (s.setInput (byteItems (b :: bs) ++ rest)) =
        .next ((takeByte b s).setInput (byteItems bs ++ rest)) := by
      rw [← takeByte_setInput]
      exact ByteStep.step_byte (s.setInput (byteItems (b :: bs) ++ rest)) rfl
    rw [takeBytes_cons, takeByte_setInput]
    exact (run_of_step hstep).trans (ih (takeByte b s))

/-- A turn on a unit leaves the state of its first byte's step, its other bytes pending (R187). -/
theorem turn_message (b : Byte) (bs : List Byte) (rest : List Item) :
    turn (s.setInput (.input (.message (b :: bs)) :: rest)) = .next (takeByte b (s.setInput (byteItems bs ++ rest))) := by
  rw [turn_input _ (u := .message (b :: bs)) rfl rfl, ByteStep.exec_decodeByte]
  rfl

/-- The turns of a message are the block's steps for its bytes. -/
theorem turns_message {bs : List Byte} (h : bs ≠ []) (rest : List Item) :
    turns bs.length (s.setInput (.input (.message bs) :: rest)) = .next (takeBytes bs (s.setInput rest)) := by
  cases bs with
  | nil => exact absurd rfl h
  | cons b bs =>
    rw [List.length_cons, turns, turn_message, takeBytes_cons, takeByte_setInput, takeByte_setInput]
    exact turns_byteItems (takeByte b s) bs rest

/-! ### What a step on the stream does -/

/-- A step on a unit of the stream completes. -/
theorem step_input_completes {u : InputUnit} {rest : List Item} (h : s.input = .input u :: rest) :
    ∃ t, step s = .next t := by
  have hturn : step s = turn s → ∃ t, step s = .next t := by
    intro hst
    rw [hst]
    cases hb : u.bytes with
    | nil => exact ⟨s.setInput rest, by simp only [turn, h, takeItem, takeFirstByte, hb]⟩
    | cons b bs => exact ⟨_, (turn_input s h hb).trans (ByteStep.exec_decodeByte _ b)⟩
  cases u with
  | byte b => exact hturn (step_turn s (by simp [h]))
  | message bs =>
    cases hd : decodeMessage bs with
    | ok i => exact ⟨_, (step_message s h hd).trans (exec_eq_takeBytes _ i)⟩
    | error e =>
      refine hturn (step_turn s ?_)
      intro bs' i rest' h' hok
      rw [h] at h'
      cases h'
      rw [hd] at hok
      cases hok

/-- A step on a command takes it. -/
theorem step_cmd {c : HostCmd} {rest : List Item} (h : s.input = .cmd c :: rest) :
    step s = execCmd c (s.setInput rest) := by
  rw [step_turn s (by simp [h]), turn_cmd s h]

theorem step_idle (h : s.input = []) : step s = .next s := by
  rw [step_turn s (by simp [h]), turn_idle s h]

end Rules

/-- Only an `Op` is refused, for the reason `opError` gives (R185). -/
theorem execCmd_refused {c : HostCmd} {s : State} {r : Refusal} (h : execCmd c s = .refused r) :
    ∃ f, c = .op f ∧ opError f s = some r := by
  cases c with
  | op f =>
    refine ⟨f, rfl, ?_⟩
    rw [execCmd, execOp] at h
    cases he : opError f s with
    | none => rw [he] at h; cases h
    | some r' => rw [he] at h; cases h; rfl
  | reset | detect | select _ | panic | reinit => cases h

/-! ### The obligations -/

/-- Settles O5: the equations of `turn` and `step`, by the first item. -/
theorem stepTakesOneItem : Obligations.StepTakesOneItem := by
  refine ⟨fun s u b bs rest h hu => turn_input s h hu, ?_, fun s c rest h => turn_cmd s h, turn_idle, ?_, step_turn⟩
  · intro s u rest h hu
    simp only [turn, h, takeItem, takeFirstByte, hu]
    rfl
  · intro s u i rest h hd
    cases u with
    | byte b =>
      cases hd
      rw [ByteStep.step_byte s h, ByteStep.exec_decodeByte]
      rfl
    | message bs => exact step_message s h hd

/-- Settles O6: each side is `takeBytes` of the message's bytes, which the decoder read as they are written. -/
theorem messageStepEqualsItsByteSteps : Obligations.MessageStepEqualsItsByteSteps := by
  have hfirst : ∀ (s : State) (b : Byte) (bs : List Byte) (rest : List Item),
      turn { s with input := .input (.message (b :: bs)) :: rest } =
        step { s with input := byteItems (b :: bs) ++ rest } := fun s b bs rest =>
    (turn_message s b bs rest).trans (ByteStep.step_byte (s.setInput (byteItems (b :: bs) ++ rest)) rfl).symm
  refine ⟨?_, hfirst, ?_⟩
  · intro s bs rest i hd
    have hbytes : encodeBytes i = bs := congrArg InputUnit.bytes (Encoding.encode_of_decodeMessage hd)
    have hne : bs ≠ [] := by rintro rfl; cases hd
    have hstep : step { s with input := .input (.message bs) :: rest } = .next (takeBytes bs (s.setInput rest)) := by
      rw [step_message _ rfl hd, exec_eq_takeBytes, hbytes]
      rfl
    exact ⟨hstep.trans (turns_message s hne rest).symm, hstep.trans (run_byteItems s bs rest).symm⟩
  · intro s b bs rest e hd
    rw [← hfirst]
    refine step_turn _ ?_
    intro bs' i rest' h hok
    cases h
    rw [hd] at hok
    cases hok

/-- Settles O57: `Fault` has no constructor, a unit of the stream completes, and a command is refused as
`execCmd_refused` says. -/
theorem onlyHostOpsAreRefused : Obligations.OnlyHostOpsAreRefused := by
  intro s
  refine ⟨fun r => (nomatch r), fun r h => ?_⟩
  match hi : s.input with
  | [] => rw [step_idle s hi] at h; cases h
  | .input u :: rest =>
    obtain ⟨t, ht⟩ := step_input_completes s hi
    rw [ht] at h
    cases h
  | .cmd c :: rest =>
    rw [step_cmd s hi] at h
    obtain ⟨f, rfl, he⟩ := execCmd_refused h
    exact ⟨f, rest, rfl, he⟩

end Sys2Proof.Bytes
end

section
/-! The message rows at the PSG backend (R171 to R180): the whole next state of NOTEON, CC, PC and PB, each from the
driver's equation for the operation it is routed to. -/

namespace Sys2Proof.Routing

open Sys2Proof.Machine Sys2Proof.Laws

/-! ### Operands as the statements write them -/

theorem toNat_wide (v : BitVec 7) : (wide v).toNat = v.toNat := by
  rw [wide, BitVec.toNat_setWidth]
  exact Nat.mod_eq_of_lt (by have := v.isLt; omega)

/-- The byte a plain level value is written as is its volume (R32, R207). -/
theorem levelWrite_plain (cfg : Config) (v : Nat) (x : BitVec 4) :
    levelWrite cfg v (levelPlain x) = (levelReg cfg v, x.setWidth 8) := by
  have key : ∀ x : BitVec 4, (levelPlain x).setWidth 8 = x.setWidth 8 := by decide
  rw [levelWrite, key]

/-- The writes of a bend, with the inactive voices left out first (R230). -/
theorem bendWrites_eq_filter (value : Int) (s : State) :
    bendWrites value s =
      ((List.range s.cfg.n).filter fun w => (s.voice w).active).flatMap fun w =>
        periodWrites s.cfg w (bentPeriod s.cfg (noteToPeriod s.cfg (s.voice w).note) value) := by
  unfold bendWrites
  induction List.range s.cfg.n with
  | nil => rfl
  | cons w ws ih =>
    rw [List.flatMap_cons, ih]
    cases h : (s.voice w).active with
    | true => rw [if_pos rfl, List.filter_cons_of_pos (by exact h), List.flatMap_cons]
    | false => rw [if_neg Bool.false_ne_true, List.filter_cons_of_neg (by simp [h]), List.nil_append]

section Rules

variable (s : State)

/-- With the PSG active an Event is recorded and routed (R170). -/
theorem emit_psg (e : Event) (h : s.active = some .psg) : emit e s = routePsg e (s.addEvent e) :=
  Release.dispatch_psg (s.addEvent e) e h

theorem routePsg_noteOn {n v : BitVec 7} (c : BitVec 4) (hv : v ≠ 0) :
    routePsg (.noteOn n v c) s = routeNoteOn n v c s := if_neg hv

/-! ### Controllers, by what `cc_map` selects (R174 to R176) -/

/-- A per-voice controller at the first active voice. -/
theorem onFirstActive_some (f : Nat → State → State) {w : Nat} (h : firstActive s = some w) :
    onFirstActive f s = f w s := by
  rw [onFirstActive, h]

theorem onFirstActive_none (f : Nat → State → State) (h : firstActive s = none) : onFirstActive f s = s := by
  rw [onFirstActive, h]

theorem routeControl_ignored (k v : BitVec 7)
    (h : ccAction s.cfg k ∈ [CcAction.none, .vibrato, .tremolo, .modulation] ∨ firstActive s = none) :
    routeControl k v s = s := by
  unfold routeControl
  rcases h with h | h
  · simp only [List.mem_cons, List.not_mem_nil, or_false] at h
    rcases h with h | h | h | h <;> rw [h] <;> rfl
  · cases ccAction s.cfg k with
    | none | vibrato | tremolo | modulation => rfl
    | volume | attack | decay | sustain | release => exact onFirstActive_none s _ h

variable {s} {k : BitVec 7} {w : Nat} (v : BitVec 7) (hw : firstActive s = some w)
include hw

theorem routeControl_volume (h : ccAction s.cfg k = .volume) : routeControl k v s = setVolume w (wide v) s := by
  rw [routeControl, h]
  exact onFirstActive_some s _ hw

theorem routeControl_attack (h : ccAction s.cfg k = .attack) : routeControl k v s = setAttack w (wide v) s := by
  rw [routeControl, h]
  exact onFirstActive_some s _ hw

theorem routeControl_decay (h : ccAction s.cfg k = .decay) : routeControl k v s = setDecay w (wide v) s := by
  rw [routeControl, h]
  exact onFirstActive_some s _ hw

theorem routeControl_sustain (h : ccAction s.cfg k = .sustain) : routeControl k v s = setSustain w (wide v) s := by
  rw [routeControl, h]
  exact onFirstActive_some s _ hw

theorem routeControl_release (h : ccAction s.cfg k = .release) : routeControl k v s = setRelease w (wide v) s := by
  rw [routeControl, h]
  exact onFirstActive_some s _ hw

end Rules

/-! ### The obligations -/

/-- Settles O18: the retrigger and the allocation of `routeNoteOn`. -/
theorem noteOnSoundsOneVoice : Obligations.NoteOnSoundsOneVoice := by
  intro s c n v w k hact hne hv hwk
  rw [Release.exec_noteOn_emit, emit_psg _ _ (by exact hact), routePsg_noteOn _ c hv]
  rcases hwk with ⟨hfind, rfl⟩ | ⟨hfind, rfl, rfl⟩
  · rw [routeNoteOn_retrigger _ n v c w (by exact hfind), levelWrite_plain]
    rfl
  · rw [routeNoteOn_allocate _ n v c (by exact hne) (by exact hfind), levelWrite_plain]
    rfl

/-- Settles O20: by what `cc_map` selects, and whether a voice is active. -/
theorem controlChangeActsOnFirstActiveVoice : Obligations.ControlChangeActsOnFirstActiveVoice := by
  intro s t c k v hact ht
  have hexec : exec (.cc c k v) s = .next (routeControl k v t) := by
    rw [Rows.exec_cc_emit, emit_psg _ _ (by exact hact), ht]
    rfl
  have hcc' : ccAction t.cfg k = ccAction s.cfg k := by rw [ht]
  have hfirst : firstActive t = firstActive s := by rw [ht]; rfl
  rw [hexec, ← hcc', ← hfirst]
  refine ⟨fun h => congrArg _ (routeControl_ignored t k v h), fun w hw => ⟨?_, ?_, ?_, ?_, ?_⟩⟩ <;> intro hcc
  · rw [routeControl_volume v hw hcc, setVolume_eq, ht]
    rfl
  · rw [routeControl_attack v hw hcc, setAttack_eq, ht]
    rfl
  · rw [routeControl_decay v hw hcc, setDecay_eq, toNat_wide, ht]
    rfl
  · rw [routeControl_sustain v hw hcc, setSustain_eq, levelWrite_plain, ht]
    rfl
  · rw [routeControl_release v hw hcc, setRelease_eq, ht]
    rfl

/-- Settles O21: the one write of `set_preset`, or none beyond the table. -/
theorem programChangeSetsTheShape : Obligations.ProgramChangeSetsTheShape := by
  intro s c p hact
  have hexec : exec (.pc c p) s =
      .next (setPreset (wide p) ((s.setParser ⟨0xC#4 ++ c, c, 0xC, 1, 0, p, 0⟩).addEvent (.programChange p c))) := by
    rw [Rows.exec_pc_emit, emit_psg _ _ (by exact hact)]
    rfl
  rw [hexec, setPreset_eq, toNat_wide]
  constructor
  · intro shape hshape
    have hshape' : ((s.setParser ⟨0xC#4 ++ c, c, 0xC, 1, 0, p, 0⟩).addEvent (.programChange p c)).cfg.presetShape[p.toNat]? =
        some shape := hshape
    rw [hshape']
    rfl
  · intro hlen
    have hnone : ((s.setParser ⟨0xC#4 ++ c, c, 0xC, 1, 0, p, 0⟩).addEvent (.programChange p c)).cfg.presetShape[p.toNat]? =
        none := List.getElem?_eq_none hlen
    rw [hnone]
    simp [writesTrace_nil, Env.afterWrites, State.setParser, State.addEvent]

/-- Settles O22: the writes of `set_pitch_bend`, with the inactive voices left out. -/
theorem pitchBendRewritesActivePeriods : Obligations.PitchBendRewritesActivePeriods := by
  intro s c l m value ws hact hvalue hws
  subst hvalue hws
  rw [Rows.exec_pb_emit, emit_psg _ _ (by exact hact), routePsg, setPitchBend_eq, bendWrites_eq_filter]
  rfl

/-- Settles O60: the routes of these Events do not name the channel. -/
theorem channelsMatterOnlyToNotes : Obligations.ChannelsMatterOnlyToNotes := by
  intro s c c' k v b
  unfold dispatch
  cases s.active with
  | none => exact ⟨rfl, rfl, rfl⟩
  | some backend => cases backend; exact ⟨rfl, rfl, rfl⟩

end Sys2Proof.Routing
end

section
/-! The voice table (R28 to R30, R150 to R158): what `allocate` takes, and the two ways any operation of the block but `init`
and `reset` moves the table (`TableMove`), from which the invariants of R29 and the rise of the stamps follow. -/

namespace Sys2Proof.Table

open Sys2Proof.Machine Sys2Proof.Laws

/-! ### The steal scan (R152) -/

/-- The scan answers the best so far, or a voice of the rest with a strictly smaller stamp than all before it; none of the
rest has a smaller stamp than the answer. `old v` is the stamp of voice `v`. -/
theorem oldestFrom_spec (old : Nat → Nat) (vs : List Voice) (best i : Nat) (hbest : best < i)
    (hvs : ∀ j (hj : j < vs.length), (vs[j]).allocatedAt = old (i + j))
    (hmin : ∀ w < i, old best ≤ old w) (hfirst : ∀ w < best, old best < old w) :
    (∀ w < i + vs.length, old (oldestFrom best (old best) i vs) ≤ old w) ∧
      ∀ w < oldestFrom best (old best) i vs, old (oldestFrom best (old best) i vs) < old w := by
  induction vs generalizing best i with
  | nil => exact ⟨hmin, hfirst⟩
  | cons x rest ih =>
    have hx : x.allocatedAt = old i := hvs 0 (Nat.zero_lt_succ _)
    have hrest : ∀ j (hj : j < rest.length), (rest[j]).allocatedAt = old (i + 1 + j) := by
      intro j hj
      have h := hvs (j + 1) (Nat.succ_lt_succ hj)
      rwa [List.getElem_cons_succ, show i + (j + 1) = i + 1 + j by omega] at h
    have hlen : i + (x :: rest).length = i + 1 + rest.length := by rw [List.length_cons]; omega
    rw [oldestFrom, hlen, hx]
    split
    · next hlt =>
      refine ih i (i + 1) (by omega) hrest (fun w hw => ?_) (fun w hw => ?_)
      · rcases Nat.lt_succ_iff_lt_or_eq.mp hw with h | rfl
        · exact hlt.le.trans (hmin w h)
        · exact le_rfl
      · exact hlt.trans_le (hmin w hw)
    · next hge =>
      refine ih best (i + 1) (by omega) hrest (fun w hw => ?_) hfirst
      rcases Nat.lt_succ_iff_lt_or_eq.mp hw with h | rfl
      · exact hmin w h
      · omega

/-- The steal takes the smallest stamp, the lowest index of a tie (R152). -/
theorem oldest_spec (s : State) (h : s.voices ≠ []) :
    (∀ w < s.voices.length, (s.voice (oldest s.voices)).allocatedAt ≤ (s.voice w).allocatedAt) ∧
      ∀ w < oldest s.voices, (s.voice (oldest s.voices)).allocatedAt < (s.voice w).allocatedAt := by
  match hvs : s.voices, h with
  | x :: rest, _ =>
    have hx : (s.voice 0).allocatedAt = x.allocatedAt := by simp [State.voice, hvs]
    have hrest : ∀ j (hj : j < rest.length), (rest[j]).allocatedAt = (s.voice (1 + j)).allocatedAt := by
      intro j hj
      simp [State.voice, hvs, Nat.add_comm 1 j, hj]
    have hspec := oldestFrom_spec (fun v => (s.voice v).allocatedAt) rest 0 1 (by omega) hrest
      (fun w hw => by rw [Nat.lt_one_iff.mp hw]) (fun w hw => absurd hw (Nat.not_lt_zero w))
    simp only [hx] at hspec
    rw [oldest, List.length_cons, Nat.add_comm rest.length 1]
    exact hspec

theorem allocIndex_of_free {s : State} {v : Nat} (h : s.voices.findIdx? (fun x => !x.active) = some v) :
    allocIndex s = v := by
  rw [allocIndex, h]

theorem allocIndex_of_full {s : State} (h : s.voices.findIdx? (fun x => !x.active) = none) :
    allocIndex s = oldest s.voices := by
  rw [allocIndex, h]

/-! ### One voice written -/

section Written

variable (s : State)

theorem voices_set_of_le {v : Nat} (x : Voice) (h : s.voices.length ≤ v) : s.voices.set v x = s.voices :=
  List.set_eq_of_length_le h

/-- `note_on` writes its voice and its stamp, at any index (R213). -/
theorem noteOn_voices (v : Nat) (n vel : BitVec 7) (c : BitVec 4) :
    (noteOn v n vel c s).voices = s.voices.set v ⟨true, n, vel, c, s.counter + 1⟩ := by
  by_cases hv : v < s.voices.length
  · rw [noteOn_eq s v n vel c hv]
  · have hle : s.voices.length ≤ v := by omega
    simp only [noteOn, writePeriod_eq, writeLevel_eq, stamp, State.setVoice, voices_set_of_le s _ hle]

theorem noteOn_counter (v : Nat) (n vel : BitVec 7) (c : BitVec 4) : (noteOn v n vel c s).counter = s.counter + 1 := by
  obtain ⟨vs, h⟩ := noteOn_effect s v n vel c
  rw [h]

/-- `allocate` writes the slot it takes and its stamp, at any table (R152). -/
theorem allocate_voices (n vel : BitVec 7) (c : BitVec 4) :
    (allocate n vel c s).2.voices = s.voices.set (allocIndex s) ⟨true, n, vel, c, s.counter + 1⟩ := by
  by_cases hne : s.voices = []
  · have hset : ∀ (v : Nat) (x : Voice), s.voices.set v x = s.voices := by intro v x; rw [hne]; rfl
    simp only [allocate, stamp, State.setVoice, hset]
  · rw [allocate_eq s n vel c hne]

theorem allocate_counter (n vel : BitVec 7) (c : BitVec 4) : (allocate n vel c s).2.counter = s.counter + 1 := rfl

theorem allocate_index (n vel : BitVec 7) (c : BitVec 4) : (allocate n vel c s).1 = allocIndex s := rfl

/-- A slot of the table once it is written: the new voice in range, every other as before. -/
theorem voice_set {t : State} {v : Nat} {x : Voice} (h : t.voices = s.voices.set v x) (w : Nat) :
    t.voice w = if w = v ∧ v < s.voices.length then x else s.voice w := by
  by_cases hw : w = v
  · subst hw
    by_cases hv : w < s.voices.length
    · rw [if_pos ⟨rfl, hv⟩, voice_set_self s t w x h hv]
    · rw [if_neg (by tauto), voice_of_voices s t (h.trans (voices_set_of_le s x (by omega)))]
  · rw [if_neg (by tauto), voice_set_other s t v w x h hw]

end Written

/-! ### How an operation moves the table -/

/-- From `s` to `t` either no voice changes but that some fall silent, or one voice is written, active, with a stamp above
the counter, for a note that no other voice sounds where notes are unique. -/
inductive TableMove (s t : State) : Prop where
  | mute (counter : t.counter = s.counter) (length : t.voices.length = s.voices.length)
      (voices : ∀ v, t.voice v = s.voice v ∨ t.voice v = { s.voice v with active := false }) : TableMove s t
  | sound (v k : Nat) (n vel : BitVec 7) (c : BitVec 4) (fresh : 0 < k) (counter : t.counter = s.counter + k)
      (voices : t.voices = s.voices.set v ⟨true, n, vel, c, s.counter + k⟩)
      (free : NotesUnique s → ∀ w < s.voices.length, w ≠ v → (s.voice w).sounds n c = false) : TableMove s t

namespace TableMove

theorem keep {s t : State} (hv : t.voices = s.voices) (hc : t.counter = s.counter) : TableMove s t :=
  .mute hc (by rw [hv]) fun v => .inl (voice_of_voices s t hv v)

/-- The move reads the table and the counter only. -/
theorem of_table_eq {s s' t t' : State} (h : TableMove s t) (hs : s'.voices = s.voices) (hsc : s'.counter = s.counter)
    (ht : t'.voices = t.voices) (htc : t'.counter = t.counter) : TableMove s' t' := by
  have hvs := voice_of_voices s s' hs
  have hvt := voice_of_voices t t' ht
  cases h with
  | mute hc hl hv =>
    exact .mute (by rw [htc, hc, hsc]) (by rw [ht, hl, hs]) fun v => by rw [hvs, hvt]; exact hv v
  | sound v k n vel c hk hc hv hfree =>
    refine .sound v k n vel c hk (by rw [htc, hc, hsc]) (by rw [ht, hv, hs, hsc]) fun hu w hw hne => ?_
    rw [hvs]
    refine hfree ?_ w (by rwa [← hs]) hne
    simpa only [NotesUnique, hs, hvs] using hu

variable {s t : State}

theorem length_eq (h : TableMove s t) : t.voices.length = s.voices.length := by
  cases h with
  | mute _ hl _ => exact hl
  | sound v k n vel c _ _ hv _ => rw [hv, List.length_set]

theorem counter_le (h : TableMove s t) : s.counter ≤ t.counter := by
  cases h with
  | mute hc _ _ => exact hc.ge
  | sound v k n vel c _ hc _ _ => omega

/-- Notes stay unique: a voice that falls silent matches nothing, and a new one matches no other (R29). -/
theorem notesUnique (h : TableMove s t) (hu : NotesUnique s) : NotesUnique t := by
  have hlen := h.length_eq
  cases h with
  | mute hc hl hv =>
    have hsame : ∀ v, (t.voice v).active = true → t.voice v = s.voice v := fun v ha =>
      (hv v).resolve_right fun hm => by simp [hm] at ha
    intro i hi j hj hai haj hn hch
    have hi' := hsame i hai
    have hj' := hsame j haj
    rw [hi'] at hai hn hch
    rw [hj'] at haj hn hch
    exact hu i (hlen ▸ hi) j (hlen ▸ hj) hai haj hn hch
  | sound v k n vel c _ _ hv hfree =>
    have hother : ∀ w < t.voices.length, w ≠ v → (t.voice w).active = true → (t.voice w).note = n →
        (t.voice w).channel = c → False := by
      intro w hw hne ha hn hch
      rw [voice_set s hv w, if_neg (by tauto)] at ha hn hch
      have hsound := (sounds_iff (s.voice w) n c).mpr ⟨ha, hn, hch⟩
      rw [hfree hu w (hlen ▸ hw) hne] at hsound
      cases hsound
    intro i hi j hj hai haj hn hch
    have hvoice : ∀ w, w < t.voices.length → w = v → t.voice w = ⟨true, n, vel, c, s.counter + k⟩ := by
      rintro w hw rfl
      rw [voice_set s hv w, if_pos ⟨rfl, hlen ▸ hw⟩]
    by_cases hiv : i = v <;> by_cases hjv : j = v
    · rw [hiv, hjv]
    · rw [hvoice i hi hiv] at hn hch
      exact (hother j hj hjv haj hn.symm hch.symm).elim
    · rw [hvoice j hj hjv] at hn hch
      exact (hother i hi hiv hai hn hch).elim
    · have hi' : t.voice i = s.voice i := by rw [voice_set s hv i, if_neg (by tauto)]
      have hj' : t.voice j = s.voice j := by rw [voice_set s hv j, if_neg (by tauto)]
      rw [hi'] at hai hn hch
      rw [hj'] at haj hn hch
      exact hu i (hlen ▸ hi) j (hlen ▸ hj) hai haj hn hch

/-- Stamps stay distinct and at most the counter: a new stamp is above them all (R29, R151). -/
theorem stampsFresh (h : TableMove s t) (hf : StampsFresh s) : StampsFresh t := by
  obtain ⟨hle, hdist⟩ := hf
  have hlen := h.length_eq
  cases h with
  | mute hc hl hv =>
    have hstamp : ∀ v, (t.voice v).allocatedAt = (s.voice v).allocatedAt := fun v => by
      rcases hv v with h | h <;> rw [h]
    have hactive : ∀ v, (t.voice v).active = true → (s.voice v).active = true := fun v ha => by
      rcases hv v with h | h
      · rwa [h] at ha
      · simp [h] at ha
    refine ⟨fun i hi => ?_, fun i hi j hj hai haj he => ?_⟩
    · rw [hstamp, hc]
      exact hle i (hlen ▸ hi)
    · rw [hstamp, hstamp] at he
      exact hdist i (hlen ▸ hi) j (hlen ▸ hj) (hactive i hai) (hactive j haj) he
  | sound v k n vel c hk hc hv _ =>
    have hvoice : ∀ w < t.voices.length,
        (w = v ∧ (t.voice w).allocatedAt = s.counter + k) ∨ (w ≠ v ∧ t.voice w = s.voice w) := by
      intro w hw
      by_cases hwv : w = v
      · subst hwv
        exact .inl ⟨rfl, by rw [voice_set s hv w, if_pos ⟨rfl, hlen ▸ hw⟩]⟩
      · exact .inr ⟨hwv, by rw [voice_set s hv w, if_neg (by tauto)]⟩
    refine ⟨fun i hi => ?_, fun i hi j hj hai haj he => ?_⟩
    · rcases hvoice i hi with ⟨-, h⟩ | ⟨-, h⟩
      · rw [h, hc]
      · rw [h, hc]
        exact (hle i (hlen ▸ hi)).trans (by omega)
    · have hi' := hle i (hlen ▸ hi)
      have hj' := hle j (hlen ▸ hj)
      rcases hvoice i hi with ⟨hiv, h⟩ | ⟨-, h⟩ <;> rcases hvoice j hj with ⟨hjv, h'⟩ | ⟨-, h'⟩
      · rw [hiv, hjv]
      · rw [h, h'] at he; omega
      · rw [h, h'] at he; omega
      · rw [h] at hai he
        rw [h'] at haj he
        exact hdist i (hlen ▸ hi) j (hlen ▸ hj) hai haj he

end TableMove

/-! ### The operations of the driver -/

section Operations

variable (s : State)

theorem tableMove_noteOff (v : Nat) : TableMove s (noteOff v s) := by
  have hv : (noteOff v s).voices = s.voices.set v { s.voice v with active := false } := by rw [noteOff_eq]
  refine .mute (by rw [noteOff_eq]) (by rw [hv, List.length_set]) fun w => ?_
  rw [voice_set s hv w]
  split
  · next h => obtain ⟨rfl, -⟩ := h; exact .inr rfl
  · exact .inl rfl

/-- `all_off` and `panic` silence voices and change nothing else of the table (R212, R234). -/
theorem tableMove_silence {t : State} (hc : t.counter = s.counter)
    (hv : t.voices = s.voices.mapIdx fun i x => if i < s.cfg.n then { x with active := false } else x) :
    TableMove s t := by
  refine .mute hc (by rw [hv, List.length_mapIdx]) fun w => ?_
  have hw : t.voice w = ((s.voices[w]?).map fun x => if w < s.cfg.n then { x with active := false } else x).getD
      Voice.empty := by
    rw [State.voice, hv, List.getElem?_mapIdx]
  rw [hw, State.voice]
  cases s.voices[w]? with
  | none => exact .inl rfl
  | some x =>
    by_cases h : w < s.cfg.n
    · exact .inr (by simp [h])
    · exact .inl (by simp [h])

theorem tableMove_allOff : TableMove s (allOff s) := tableMove_silence s (by rw [allOff_eq]) (by rw [allOff_eq])

theorem tableMove_driverPanic : TableMove s (driverPanic s) :=
  tableMove_silence s (by rw [driverPanic_eq]) (by rw [driverPanic_eq])

/-- `note_on` at `v`, where no other voice sounds the note. -/
theorem tableMove_noteOn (v : Nat) (n vel : BitVec 7) (c : BitVec 4)
    (hfree : NotesUnique s → ∀ w < s.voices.length, w ≠ v → (s.voice w).sounds n c = false) :
    TableMove s (noteOn v n vel c s) :=
  .sound v 1 n vel c Nat.one_pos (noteOn_counter s v n vel c) (noteOn_voices s v n vel c) hfree

/-- Where notes are unique, a voice found by its note is the only one that sounds it (R29). -/
theorem sounds_only_found {n : BitVec 7} {c : BitVec 4} {v : Nat} (hfind : findByNote n c s = some v)
    (hu : NotesUnique s) : ∀ w < s.voices.length, w ≠ v → (s.voice w).sounds n c = false := by
  obtain ⟨hv, hsound, -⟩ := findByNote_some s n c v hfind
  obtain ⟨ha, hn, hc⟩ := (sounds_iff _ n c).mp hsound
  intro w hw hne
  by_contra hs
  obtain ⟨ha', hn', hc'⟩ := (sounds_iff _ n c).mp (Bool.eq_true_of_not_eq_false hs)
  exact hne (hu w hw v hv ha' ha (hn'.trans hn.symm) (hc'.trans hc.symm))

theorem tableMove_routeNoteOff (n : BitVec 7) (c : BitVec 4) : TableMove s (routeNoteOff n c s) := by
  cases hfind : findByNote n c s with
  | none => rw [routeNoteOff_absent s n c hfind]; exact .keep rfl rfl
  | some v => rw [routeNoteOff_found s n c v hfind]; exact tableMove_noteOff s v

theorem tableMove_routeNoteOn (n vel : BitVec 7) (c : BitVec 4) : TableMove s (routeNoteOn n vel c s) := by
  cases hfind : findByNote n c s with
  | some v =>
    rw [routeNoteOn, hfind]
    exact tableMove_noteOn s v n vel c (sounds_only_found s hfind)
  | none =>
    rw [routeNoteOn, hfind]
    refine .sound (allocIndex s) 2 n vel c Nat.two_pos ?_ ?_ fun _ w hw _ => findByNote_none s n c hfind w hw
    · rw [noteOn_counter, allocate_counter]
    · rw [noteOn_voices, allocate_voices, allocate_counter, allocate_index, List.set_set]

theorem tableMove_routeControl (k v : BitVec 7) : TableMove s (routeControl k v s) := by
  unfold routeControl
  cases hfirst : firstActive s with
  | none =>
    have hnone : ∀ f : Nat → State → State, onFirstActive f s = s := fun f => Routing.onFirstActive_none s f hfirst
    simp only [hnone]
    cases ccAction s.cfg k <;> exact .keep rfl rfl
  | some w =>
    have hsome : ∀ f : Nat → State → State, onFirstActive f s = f w s := fun f => Routing.onFirstActive_some s f hfirst
    simp only [hsome]
    cases ccAction s.cfg k with
    | none | vibrato | tremolo | modulation => exact .keep rfl rfl
    | volume => exact .keep (by rw [setVolume_eq]) (by rw [setVolume_eq])
    | attack => exact .keep (by rw [setAttack_eq]) (by rw [setAttack_eq])
    | decay => exact .keep (by rw [setDecay_eq]) (by rw [setDecay_eq])
    | sustain => exact .keep (by rw [setSustain_eq]) (by rw [setSustain_eq])
    | release => exact .keep (by rw [setRelease_eq]) (by rw [setRelease_eq])

theorem tableMove_setPreset (p : Byte) : TableMove s (setPreset p s) :=
  .keep (by rw [setPreset_eq]) (by rw [setPreset_eq])

theorem tableMove_setPitchBend (b : Int) : TableMove s (setPitchBend b s) :=
  .keep (by rw [setPitchBend_eq]) (by rw [setPitchBend_eq])

theorem tableMove_routePsg (e : Event) : TableMove s (routePsg e s) := by
  cases e with
  | noteOn n v c =>
    simp only [routePsg]
    split
    · exact tableMove_routeNoteOff s n c
    · exact tableMove_routeNoteOn s n v c
  | noteOff n c => exact tableMove_routeNoteOff s n c
  | controlChange k v _ => exact tableMove_routeControl s k v
  | programChange p _ => exact tableMove_setPreset s (wide p)
  | pitchBend b _ => exact tableMove_setPitchBend s b

theorem tableMove_dispatch (e : Event) : TableMove s (dispatch e s) := by
  cases hact : s.active with
  | none => rw [Rows.dispatch_without_backend s e hact]; exact .keep rfl rfl
  | some k => cases k; rw [Release.dispatch_psg s e hact]; exact tableMove_routePsg s e

/-- One byte moves the table as the Event it completes does, if it completes one (R120). -/
theorem tableMove_takeByte (b : Byte) : TableMove s (takeByte b s) := by
  cases hev : (parse s.parser b).2 with
  | none => rw [ByteStep.takeByte_of_noEvent s hev]; exact .keep rfl rfl
  | some e =>
    rw [ByteStep.takeByte_of_event s hev]
    exact (tableMove_dispatch { s with parser := (parse s.parser b).1, events := s.events ++ [e] } e).of_table_eq
      rfl rfl rfl rfl

end Operations

/-! ### Allocations one after another -/

theorem allocate_of_eq {s t : State} {n vel : BitVec 7} {c : BitVec 4} {v i : Nat} (h : allocate n vel c s = (v, t))
    (hi : allocIndex s = i) :
    v = i ∧ t.voices = s.voices.set i ⟨true, n, vel, c, s.counter + 1⟩ ∧ t.counter = s.counter + 1 := by
  obtain ⟨rfl, rfl⟩ := Prod.mk.inj h
  subst hi
  exact ⟨rfl, allocate_voices s n vel c, rfl⟩

/-- With every voice active and stamped in the order of the table, voice 0 is stolen (R152). -/
theorem allocIndex_of_ascending {s : State} {x y z : Voice} (hvs : s.voices = [x, y, z]) (hx : x.active = true)
    (hy : y.active = true) (hz : z.active = true) (hxy : x.allocatedAt < y.allocatedAt)
    (hyz : y.allocatedAt < z.allocatedAt) : allocIndex s = 0 := by
  rw [allocIndex_of_full (by simp [hvs, hx, hy, hz]), hvs]
  simp only [oldest, oldestFrom]
  rw [if_neg (by omega), if_neg (by omega)]

/-! ### The obligations -/

/-- Settles O36: the free slot is the lowest match of its scan, the oldest voice that of `oldest_spec`. -/
theorem allocateTakesFirstFreeElseOldest : Obligations.AllocateTakesFirstFreeElseOldest := by
  intro s n vel c v hne hv
  rw [allocate_index] at hv
  have hlt : v < s.voices.length := hv ▸ allocIndex_lt s hne
  have heq := allocate_eq s n vel c hne
  rw [hv] at heq
  refine ⟨hlt, ?_, ?_, by rw [heq]⟩
  · intro w hw hidle
    cases hscan : s.voices.findIdx? fun x => !x.active with
    | none => have h := scan_none s _ hscan w hw; simp [hidle] at h
    | some u =>
      obtain ⟨-, hu, hmin⟩ := scan_some s _ u hscan
      rw [← hv, allocIndex_of_free hscan]
      refine ⟨by simpa using hu, Nat.le_of_not_lt fun hwu => ?_⟩
      have h := hmin w hwu
      simp [hidle] at h
  · intro hfull
    cases hscan : s.voices.findIdx? fun x => !x.active with
    | some u =>
      obtain ⟨hu, hidle, -⟩ := scan_some s _ u hscan
      simp [hfull u hu] at hidle
    | none =>
      rw [← hv, allocIndex_of_full hscan]
      exact oldest_spec s hne

/-- Settles O37: four allocations are followed through a table of three voices; after `note_off` no voice sounds the
note, since the only one that did is inactive. -/
theorem threeAllocationsThenSteal : Obligations.ThreeAllocationsThenSteal := by
  constructor
  · intro s s1 s2 s3 s4 a b c d v1 v2 v3 v4 hlen hidle h1 h2 h3 h4
    obtain ⟨x, y, z, hvs⟩ := List.length_eq_three.mp hlen
    have hx : x.active = false := hidle x (by simp [hvs])
    have hy : y.active = false := hidle y (by simp [hvs])
    have hz : z.active = false := hidle z (by simp [hvs])
    obtain ⟨e1, hvs1, hc1⟩ := allocate_of_eq h1 (allocIndex_of_free (v := 0) (by simp [hvs, List.findIdx?_cons, hx]))
    rw [hvs, List.set_cons_zero] at hvs1
    obtain ⟨e2, hvs2, hc2⟩ := allocate_of_eq h2 (allocIndex_of_free (v := 1) (by simp [hvs1, List.findIdx?_cons, hy]))
    rw [hvs1, List.set_cons_succ, List.set_cons_zero, hc1] at hvs2
    obtain ⟨e3, hvs3, hc3⟩ := allocate_of_eq h3 (allocIndex_of_free (v := 2) (by simp [hvs2, List.findIdx?_cons, hz]))
    rw [hvs2, List.set_cons_succ, List.set_cons_succ, List.set_cons_zero, hc2, hc1] at hvs3
    obtain ⟨e4, -⟩ := allocate_of_eq h4
      (allocIndex_of_ascending hvs3 rfl rfl rfl (Nat.lt_succ_self _) (Nat.lt_succ_self _))
    exact ⟨e1, e2, e3, e4, by rw [hvs3]; rfl⟩
  · intro s v hu hv ha
    have hfound : findByNote (s.voice v).note (s.voice v).channel s = some v := by
      refine (Scans.findByNote_eq_some_iff s _ _ v).mpr ⟨hv, (sounds_iff _ _ _).mpr ⟨ha, rfl, rfl⟩, fun w hw => ?_⟩
      by_contra hs
      obtain ⟨ha', hn', hc'⟩ := (sounds_iff _ _ _).mp (Bool.eq_true_of_not_eq_false hs)
      exact absurd (hu w (hw.trans hv) v hv ha' ha hn' hc') (Nat.ne_of_lt hw)
    refine ⟨hfound, ?_⟩
    cases hfind : findByNote (s.voice v).note (s.voice v).channel (noteOff v s) with
    | none => rfl
    | some w =>
      obtain ⟨hw, hsound, -⟩ := findByNote_some _ _ _ w hfind
      have hvs : (noteOff v s).voices = s.voices.set v { s.voice v with active := false } := by rw [noteOff_eq]
      rw [hvs, List.length_set] at hw
      rw [voice_set s hvs w] at hsound
      split at hsound
      · simp [Voice.sounds] at hsound
      · next hne =>
        rw [sounds_only_found s hfound hu w hw (by tauto)] at hsound
        cases hsound

end Sys2Proof.Table
end

section
/-! The frame of every instruction (R74, R120, R270): its bytes one after another set `P`, emit their Events and perform
those Events' register writes (`bytesWrites`), which are the writes the statements name (`instrWrites`). -/

namespace Sys2Proof.Frames

open Sys2Proof.Machine Sys2Proof.Laws Sys2Proof.Bytes

/-- The `RegWrite`s of a byte: those of the Event it completes, if it completes one (R120). -/
def byteWrites (b : Byte) (s : State) : List (Byte × Byte) :=
  (parse s.parser b).2.elim [] fun e => eventWrites e s

/-- The `RegWrite`s of bytes taken one after another. -/
def bytesWrites : List Byte → State → List (Byte × Byte)
  | [], _ => []
  | b :: bs, s => byteWrites b s ++ bytesWrites bs (takeByte b s)

section Rules

variable (s : State)

theorem byteWrites_of_noEvent {b : Byte} (h : (parse s.parser b).2 = none) : byteWrites b s = [] := by
  rw [byteWrites, h, Option.elim_none]

theorem byteWrites_of_event {b : Byte} {e : Event} (h : (parse s.parser b).2 = some e) :
    byteWrites b s = eventWrites e s := by
  rw [byteWrites, h, Option.elim_some]

theorem byteWrites_dataByteOf (d : BitVec 7) : byteWrites (dataByteOf d) s = dataWrites d s := by
  have hp : (parse s.parser (dataByteOf d)).2 = (parseData s.parser d).2 := by rw [parse_dataByteOf]
  cases h : (parseData s.parser d).2 with
  | none => rw [byteWrites_of_noEvent s (hp.trans h), dataWrites, h]
  | some e => rw [byteWrites_of_event s (hp.trans h), dataWrites, h]

/-! ### What bytes do -/

/-- One byte: `P`, at most one Event, that Event's register writes, the voice table, the counter and the shadows. -/
theorem takeByte_effect (b : Byte) :
    ∃ vs c lv,
      takeByte b s =
        { s with
          parser := (parse s.parser b).1
          events := s.events ++ (parse s.parser b).2.toList
          voices := vs
          counter := c
          lvl := lv
          trace := s.trace ++ writesTrace s.cfg (byteWrites b s)
          env := s.env.afterWrites s.cfg (byteWrites b s) } := by
  cases hev : (parse s.parser b).2 with
  | none =>
    refine ⟨s.voices, s.counter, s.lvl, ?_⟩
    rw [ByteStep.takeByte_of_noEvent s hev, byteWrites_of_noEvent s hev]
    simp [writesTrace_nil, Env.afterWrites]
  | some e =>
    obtain ⟨vs, c, lv, hd⟩ := dispatch_effect { s with parser := (parse s.parser b).1, events := s.events ++ [e] } e
    refine ⟨vs, c, lv, ?_⟩
    rw [ByteStep.takeByte_of_event s hev, byteWrites_of_event s hev, hd]
    simp only [eventWrites_congr, Option.toList_some]

/-- Bytes one after another: the same, with `P` and the Events those of `parseAll` (R142). -/
theorem takeBytes_effect (bs : List Byte) :
    ∃ vs c lv,
      takeBytes bs s =
        { s with
          parser := (parseAll s.parser bs).1
          events := s.events ++ (parseAll s.parser bs).2
          voices := vs
          counter := c
          lvl := lv
          trace := s.trace ++ writesTrace s.cfg (bytesWrites bs s)
          env := s.env.afterWrites s.cfg (bytesWrites bs s) } := by
  induction bs generalizing s with
  | nil => exact ⟨s.voices, s.counter, s.lvl, by simp [takeBytes_nil, parseAll, bytesWrites, writesTrace, Env.afterWrites]⟩
  | cons b bs ih =>
    obtain ⟨vs, c, lv, hb⟩ := takeByte_effect s b
    obtain ⟨vs', c', lv', hbs⟩ := ih (takeByte b s)
    refine ⟨vs', c', lv', ?_⟩
    rw [takeBytes_cons, hbs, bytesWrites, ParserRules.parseAll_cons, writesTrace_append, afterWrites_append]
    simp only [hb, List.append_assoc]

theorem takeBytes_table (bs : List Byte) :
    (takeBytes bs s).voices.length = s.voices.length ∧ s.counter ≤ (takeBytes bs s).counter := by
  induction bs generalizing s with
  | nil => exact ⟨rfl, le_rfl⟩
  | cons b bs ih =>
    have hb := Table.tableMove_takeByte s b
    obtain ⟨hlen, hc⟩ := ih (takeByte b s)
    exact ⟨hlen.trans hb.length_eq, hb.counter_le.trans hc⟩

/-- Bytes that emit nothing change `P` alone. -/
theorem takeBytes_of_noEvents (bs : List Byte) (h : (parseAll s.parser bs).2 = []) :
    takeBytes bs s = s.setParser (parseAll s.parser bs).1 := by
  induction bs generalizing s with
  | nil => rfl
  | cons b bs ih =>
    rw [ParserRules.parseAll_cons] at h ⊢
    obtain ⟨hb, hbs⟩ := List.append_eq_nil_iff.mp h
    have hnone : (parse s.parser b).2 = none := by
      cases hev : (parse s.parser b).2 with
      | none => rfl
      | some e => rw [hev] at hb; cases hb
    rw [takeBytes_cons, ByteStep.takeByte_of_noEvent s hnone]
    exact ih { s with parser := (parse s.parser b).1 } hbs

/-! ### The writes of an instruction -/

/-- A status byte and two data bytes write what the Event of the message writes. -/
theorem bytesWrites_message {command c : BitVec 4} {x y : BitVec 7} {e : Event} (h3 : command.getLsbD 3 = true)
    (hF : command ≠ 0xF) (hx : expectedOf command = 2)
    (he : eventOf (Release.messageParser command c x y) = some e) :
    bytesWrites [statusByteOf command c, dataByteOf x, dataByteOf y] s = eventWrites e s := by
  have h0 : command ≠ 0 := by rintro rfl; cases h3
  have hlt : ∀ command c : BitVec 4, command ≠ 0xF → (statusByteOf command c).toNat < 0xF0 := by decide
  have hs : isStatus (statusByteOf command c) = true := by
    simpa [isData, isStatus] using (Encoding.isData_statusByteOf command c).trans (congrArg not h3)
  have hstatus : byteWrites (statusByteOf command c) s = [] :=
    byteWrites_of_noEvent s (by rw [parse_status _ _ (hlt command c hF) hs])
  have hfirst := Release.parseData_first hx h0 c x
  have hheld : dataByte x (statusByte command c s) =
      s.setParser { statusParser command c with received := 1, data1 := x } :=
    Rows.dataByte_of_noEvent (statusByte command c s) hfirst
  rw [bytesWrites, hstatus, takeByte_statusByteOf s command c h3 hF, bytesWrites, byteWrites_dataByteOf,
    takeByte_dataByteOf, hheld, bytesWrites, byteWrites_dataByteOf, bytesWrites]
  simp only [dataWrites, statusByte, setParser_parser, hfirst, Release.parseData_second hx h0, he, List.nil_append,
    List.append_nil]
  rfl

/-- A status byte and its one data byte write what the ProgramChange writes. -/
theorem bytesWrites_program (c : BitVec 4) (p : BitVec 7) :
    bytesWrites [statusByteOf 0xC c, dataByteOf p] s = eventWrites (.programChange p c) s := by
  have hs : ∀ c : BitVec 4, (statusByteOf 0xC c).toNat < 0xF0 ∧ isStatus (statusByteOf 0xC c) = true := by decide
  have hstatus : byteWrites (statusByteOf 0xC c) s = [] :=
    byteWrites_of_noEvent s (by rw [parse_status _ _ (hs c).1 (hs c).2])
  have hrs : (statusParser 0xC c).rs ≠ 0 := statusByteOf_ne_zero _ c (by decide)
  have hdata : (parseData (statusParser 0xC c) p).2 = some (.programChange p c) := by
    rw [ParserRules.parseData_completes p hrs rfl, ParserRules.store_first p rfl]
    rfl
  rw [bytesWrites, hstatus, takeByte_statusByteOf s 0xC c rfl (by decide), bytesWrites, byteWrites_dataByteOf, bytesWrites]
  simp only [dataWrites, statusByte, setParser_parser, hdata, List.nil_append, List.append_nil]
  rfl

/-- A status or system byte writes nothing. -/
theorem bytesWrites_status {b : Byte} (h : 0x80 ≤ b.toNat) : bytesWrites [b] s = [] := by
  rw [bytesWrites, bytesWrites, List.append_nil]
  refine byteWrites_of_noEvent s ?_
  rcases ParserRules.parse_cases s.parser b with ⟨-, hp⟩ | ⟨-, hp⟩ | ⟨-, hp⟩ | ⟨hlt, -⟩
  · rw [hp]
  · rw [hp]
  · rw [hp]
  · omega

/-- The writes the statements name for an instruction are those of its bytes. -/
theorem instrWrites_eq (i : Instr) : instrWrites i s = bytesWrites (encodeBytes i) s := by
  have hst : ∀ command c : BitVec 4, command.getLsbD 3 = true → 0x80 ≤ (statusByteOf command c).toNat := by decide
  have hsys : ∀ low : BitVec 3, 0x80 ≤ (0b11110#5 ++ low).toNat ∧ 0x80 ≤ (0b11111#5 ++ low).toNat := by decide
  cases i with
  | data d | rs1 d => exact (byteWrites_dataByteOf s d).symm.trans (List.append_nil _).symm
  | rs2 x y =>
    show dataWrites x s ++ dataWrites y (dataByte x s) = bytesWrites [dataByteOf x, dataByteOf y] s
    rw [bytesWrites, bytesWrites, bytesWrites, byteWrites_dataByteOf, byteWrites_dataByteOf, takeByte_dataByteOf,
      List.append_nil]
  | noteOff c x y | noteOn c x y | cc c x y | pb c x y => exact (bytesWrites_message s rfl (by decide) rfl rfl).symm
  | pc c p => exact (bytesWrites_program s c p).symm
  | stNoteOff c | stNoteOn c | stPolyp c | stCc c | stPc c | stChanp c | stPb c | polyp c | chanp c =>
    exact (bytesWrites_status s (hst _ c rfl)).symm
  | syscom low => exact (bytesWrites_status s (hsys low).1).symm
  | rt low => exact (bytesWrites_status s (hsys low).2).symm
  | sysF0 | sysF1 | sysF2 | sysF3 | sysF4 | sysF5 | sysF6 | sysF7 => exact (bytesWrites_status s (by decide)).symm
  | rtF8 | rtF9 | rtFA | rtFB | rtFC | rtFD | rtFE | rtFF => exact (bytesWrites_status s (by decide)).symm

theorem exec_env {i : Instr} {t : State} (h : exec i s = .next t) :
    t.env = s.env.afterWrites s.cfg (instrWrites i s) := by
  rw [exec_eq_takeBytes] at h
  cases h
  obtain ⟨vs, c, lv, hbs⟩ := takeBytes_effect s (encodeBytes i)
  rw [hbs, instrWrites_eq]

end Rules

/-! ### The obligations -/

/-- Settles O23: the instruction is `takeBytes` of its bytes, whose effect, table and quiet case are the three lemmas
above. -/
theorem everyInstructionCompletesInItsFrame : Obligations.EveryInstructionCompletesInItsFrame := by
  intro i s
  refine ⟨takeBytes (encodeBytes i) s, exec_eq_takeBytes s i, ?_⟩
  obtain ⟨hlen, hcount⟩ := takeBytes_table s (encodeBytes i)
  have hquiet := takeBytes_of_noEvents s (encodeBytes i)
  obtain ⟨vs, c, lv, hbs⟩ := takeBytes_effect s (encodeBytes i)
  rw [instrWrites_eq]
  refine ⟨?_, ?_, ?_, ?_, ?_, ?_, ?_, ?_, ?_, ?_, hlen, hcount, ?_⟩
  case refine_11 =>
    intro hnone
    rw [hquiet hnone]
    exact ⟨rfl, rfl, rfl⟩
  all_goals rw [hbs]

/-- Settles O24: a register that no write of the instruction selects keeps its value. -/
theorem instructionsStoreOnlyTheirRegisters : Obligations.InstructionsStoreOnlyTheirRegisters := by
  intro s t hp
  have hframe : ∀ i, exec i s = .next t → ∀ r, (∀ w ∈ instrWrites i s, select4 w.1 ≠ r) → t.env.reg r = s.env.reg r := by
    intro i h r hr
    rw [exec_env s h]
    exact reg_afterWrites_frame s.cfg hp _ _ r hr
  refine ⟨?_, ?_, ?_, ?_⟩
  · intro c low i hi h r
    have hnone : ∀ i ∈ [Instr.stNoteOff c, .stNoteOn c, .stPolyp c, .stCc c, .stPc c, .stChanp c, .stPb c, .polyp c,
        .chanp c, .syscom low, .rt low, .sysF0, .sysF1, .sysF2, .sysF3, .sysF4, .sysF5, .sysF6, .sysF7, .rtF8, .rtF9,
        .rtFA, .rtFB, .rtFC, .rtFD, .rtFE, .rtFF], instrWrites i s = [] := by
      simp only [List.forall_mem_cons, instrWrites, List.not_mem_nil, IsEmpty.forall_iff, implies_true, and_self]
    exact hframe i h r (by rw [hnone i hi]; exact List.forall_mem_nil _)
  · intro c x y
    simp only [List.forall_mem_cons]
    exact ⟨hframe _, hframe _, hframe _, hframe _, hframe _, List.forall_mem_nil _⟩
  · intro d
    simp only [List.forall_mem_cons]
    exact ⟨hframe _, hframe _, List.forall_mem_nil _⟩
  · intro x y u hu h r hr
    cases hu
    exact hframe _ h r hr

end Sys2Proof.Frames
end

section
/-! The driver's arithmetic (R201 to R205, R230 to R232) and the two parts of a level value (R32). -/

namespace Sys2Proof.Arithmetic

open Sys2Proof.Machine Sys2Proof.Laws

/-! ### Volume and scale (R204, R205) -/

theorem toNat_vol4 (x : Byte) : (vol4 x).toNat = min 15 (x.toNat / 8) := by
  rw [vol4, BitVec.toNat_ofNat, Nat.shiftRight_eq_div_pow]
  omega

theorem toNat_scale8 (x : Byte) : (scale8 x).toNat = min 255 (2 * x.toNat) := by
  rw [scale8, BitVec.toNat_ofNat]
  omega

/-! ### Level values (R32) -/

section Levels

variable (x : BitVec 5) (v : BitVec 4)

@[simp] theorem envelopeMode_keepMode : envelopeMode (levelKeepMode x v) = envelopeMode x := by revert x v; decide
@[simp] theorem levelVolume_keepMode : levelVolume (levelKeepMode x v) = v := by revert x v; decide
@[simp] theorem envelopeMode_toEnvelope : envelopeMode (levelToEnvelope x) = true := by revert x; decide
@[simp] theorem levelVolume_toEnvelope : levelVolume (levelToEnvelope x) = levelVolume x := by revert x; decide
@[simp] theorem envelopeMode_plain : envelopeMode (levelPlain v) = false := by revert v; decide
@[simp] theorem levelVolume_plain : levelVolume (levelPlain v) = v := by revert v; decide

end Levels

/-- The shadow of a voice once it is written (R36). -/
theorem shadow_of_lvl {s t : State} {v : Nat} {x : BitVec 5} (h : t.lvl = s.lvl.setIfInBounds v x) (hv : v < 3) :
    t.shadow v = x := by
  rw [State.shadow, h]
  simp [hv]

section Shadows

variable (s : State) {v : Nat} (hv : v < 3)
include hv

theorem shadow_setVolume (value : Byte) : (setVolume v value s).shadow v = levelKeepMode (s.shadow v) (vol4 value) :=
  shadow_of_lvl (s := s) (by rw [setVolume_eq]) hv

theorem shadow_setAttack (value : Byte) : (setAttack v value s).shadow v = levelToEnvelope (s.shadow v) :=
  shadow_of_lvl (s := s) (by rw [setAttack_eq]) hv

theorem shadow_setSustain (value : Byte) : (setSustain v value s).shadow v = levelPlain (vol4 value) :=
  shadow_of_lvl (s := s) (by rw [setSustain_eq]) hv

theorem shadow_noteOn (n vel : BitVec 7) (c : BitVec 4) :
    (noteOn v n vel c s).shadow v = levelPlain (vol4 (wide vel)) := by
  obtain ⟨vs, h⟩ := noteOn_effect s v n vel c
  exact shadow_of_lvl (s := s) (by rw [h]) hv

end Shadows

/-! ### Periods (R201, R202) -/

/-- The period of a note is the entry of the clamped note, which the table of a valid configuration has (R12, R202). -/
theorem noteToPeriod_eq {cfg : Config} (h : cfg.valid = true) (note : BitVec 7) :
    ∃ hi : clampNote cfg note - cfg.noteMin < cfg.period.length,
      noteToPeriod cfg note = cfg.period[clampNote cfg note - cfg.noteMin] := by
  obtain ⟨-, -, -, -, -, ⟨hmin, hmax⟩, hlen, -⟩ := valid_spec cfg h
  have hi : clampNote cfg note - cfg.noteMin < cfg.period.length := by rw [hlen, clampNote]; omega
  exact ⟨hi, by rw [noteToPeriod, List.getElem?_eq_getElem hi, Option.getD_some]⟩

theorem noteToPeriod_bounds {cfg : Config} (h : cfg.valid = true) (note : BitVec 7) :
    1 ≤ noteToPeriod cfg note ∧ noteToPeriod cfg note ≤ 4095 := by
  obtain ⟨-, -, -, -, -, -, -, hbounds, -⟩ := valid_spec cfg h
  obtain ⟨hi, heq⟩ := noteToPeriod_eq h note
  rw [heq]
  exact hbounds _ (List.getElem_mem hi)

/-! ### Bends (R230 to R232) -/

/-- The quotient of a bend has the sign of its value and is below the base: `BEND_K` is above every bend (R12, R232). -/
theorem bend_quotient {base : Nat} {value : Int} {k : Nat} (hk : 8192 ≤ k) (hb : 1 ≤ base) (hlo : -8192 ≤ value)
    (hhi : value ≤ 8191) :
    ((base : Int) * value).tdiv k < base ∧
      (0 ≤ value → 0 ≤ ((base : Int) * value).tdiv k) ∧ (value ≤ 0 → ((base : Int) * value).tdiv k ≤ 0) := by
  have hk0 : (0 : Int) < k := by omega
  have hb0 : (0 : Int) < base := by omega
  have hpos : 0 ≤ value → 0 ≤ ((base : Int) * value).tdiv k := fun h =>
    Int.tdiv_nonneg (Int.mul_nonneg hb0.le h) hk0.le
  have hneg : value ≤ 0 → ((base : Int) * value).tdiv k ≤ 0 := by
    intro h
    have hq : 0 ≤ ((base : Int) * -value).tdiv k := Int.tdiv_nonneg (Int.mul_nonneg hb0.le (by omega)) hk0.le
    rw [Int.mul_neg, Int.neg_tdiv] at hq
    omega
  refine ⟨?_, hpos, hneg⟩
  rcases Int.le_total 0 value with h | h
  · have hmul : (base : Int) * value < base * k := Int.mul_lt_mul_of_pos_left (by omega) hb0
    rw [Int.tdiv_eq_ediv_of_nonneg (Int.mul_nonneg hb0.le h)]
    exact Int.ediv_lt_of_lt_mul hk0 hmul
  · exact lt_of_le_of_lt (hneg h) hb0

/-- The bent period, where the base and the quotient leave the lower clamp unreached (R230). -/
theorem bentPeriod_eq (cfg : Config) (base : Nat) (value : Int)
    (h : ((base : Int) * value).tdiv cfg.bendK < base) :
    (bentPeriod cfg base value : Int) = min 4095 ((base : Int) - ((base : Int) * value).tdiv cfg.bendK) := by
  rw [bentPeriod]
  omega

/-! ### The obligations -/

/-- Settles O39: the formulas by `toNat_vol4` and `toNat_scale8`; the order law from the formula. -/
theorem volumeAndScaleLaws : Obligations.VolumeAndScaleLaws := by
  refine ⟨toNat_vol4, toNat_scale8, by decide, by decide, by decide, fun x y h => ?_⟩
  rw [toNat_vol4, toNat_vol4]
  have hdiv : x.toNat / 8 ≤ y.toNat / 8 := Nat.div_le_div_right h
  omega

/-- Settles O40: the parts of the value each operation writes to the shadow, and the equations of the two operations
that write the level register once. -/
theorem levelValuesKeepTheirParts : Obligations.LevelValuesKeepTheirParts := by
  refine ⟨fun x v => by simp, fun s v hv => ⟨fun value => ?_, ?_, fun value => ?_, fun value => ?_, fun n vel c => ?_⟩⟩
  · rw [shadow_setVolume s hv, envelopeMode_keepMode, levelVolume_keepMode, toNat_vol4]
    exact ⟨rfl, rfl, setVolume_eq s v value⟩
  · rw [shadow_setVolume s hv, levelVolume_keepMode]
    decide
  · rw [shadow_setAttack s hv, envelopeMode_toEnvelope, levelVolume_toEnvelope]
    exact ⟨rfl, rfl⟩
  · rw [shadow_setSustain s hv, envelopeMode_plain, levelVolume_plain, toNat_vol4]
    exact ⟨rfl, rfl, setSustain_eq s v value⟩
  · rw [shadow_noteOn s hv, envelopeMode_plain, levelVolume_plain, toNat_vol4, Routing.toNat_wide]
    exact ⟨rfl, rfl⟩

/-- Settles O41: the clamp is monotone and the table never rises. -/
theorem periodsFallAsNotesRise : Obligations.PeriodsFallAsNotesRise := by
  intro cfg h n1 n2 hle
  obtain ⟨-, -, -, -, -, -, -, -, horder, -⟩ := valid_spec cfg h
  obtain ⟨hi1, heq1⟩ := noteToPeriod_eq h n1
  obtain ⟨hi2, heq2⟩ := noteToPeriod_eq h n2
  have hclamp : clampNote cfg n1 - cfg.noteMin ≤ clampNote cfg n2 - cfg.noteMin := by
    rw [clampNote, clampNote]; omega
  refine ⟨?_, noteToPeriod_bounds h n1⟩
  rw [heq1, heq2]
  exact nonIncreasing_le cfg.period horder _ _ hclamp hi2

/-- Settles O42: by `bentPeriod_eq`, with the quotient's bounds of `bend_quotient`; a product below `BEND_K` has the
quotient 0. -/
theorem bendStaysInRange : Obligations.BendStaysInRange := by
  intro cfg base value h hb1 hb2 hlo hhi
  obtain ⟨-, -, -, -, -, -, -, -, -, hk, -⟩ := valid_spec cfg h
  obtain ⟨hlt, hpos, hneg⟩ := bend_quotient hk hb1 hlo hhi
  have heq := bentPeriod_eq cfg base value hlt
  have hsmall : ∀ v : Int, ((base : Int) * v).natAbs < cfg.bendK → bentPeriod cfg base v = base := by
    intro v hv
    have hq : ((base : Int) * v).tdiv cfg.bendK = 0 := by
      rw [← Int.natAbs_eq_zero, Int.natAbs_tdiv, Int.natAbs_natCast]
      exact Nat.div_eq_of_lt hv
    have hv' := bentPeriod_eq cfg base v (by omega)
    omega
  refine ⟨by omega, hsmall 0 (by simp; omega), hsmall value, by omega, fun h => ?_, fun h => ?_⟩
  · have := hpos h
    omega
  · have := hneg h
    omega

end Sys2Proof.Arithmetic
end

section
/-! The present chip (R40 to R42, R62, R63, R71): its registers are distinct under a valid configuration that fits it, so each
register holds what the one write to it stored. -/

namespace Sys2Proof.Chip

open Sys2Proof.Machine Sys2Proof.Laws

/-! ### Distinct registers (R10) -/

section Registers

variable {cfg : Config} (hvalid : cfg.valid = true) (hfits : cfg.chipFits = true)
include hvalid hfits

theorem select4_indices_nodup : (cfg.indices.map select4).Nodup := by
  obtain ⟨-, -, hnodup, -⟩ := valid_spec cfg hvalid
  refine List.Nodup.map_on (fun r hr q hq h => ?_) hnodup
  have hlt : ∀ r ∈ cfg.indices, r.toNat < 16 := fun r hr => of_decide_eq_true (List.all_eq_true.mp hfits r hr)
  have hr' := hlt r hr
  have hq' := hlt q hq
  have h' := congrArg BitVec.toNat h
  rw [select4, select4, BitVec.toNat_setWidth, BitVec.toNat_setWidth] at h'
  exact BitVec.eq_of_toNat_eq (by omega)

/-- Registers at different places of R10's list are selected apart. -/
theorem select4_ne {i j : Nat} (hi : i < 14) (hj : j < 14) (hne : i ≠ j) :
    select4 (cfg.indices.getD i 0) ≠ select4 (cfg.indices.getD j 0) := by
  have hlen : cfg.indices.length = 14 := rfl
  have hget : ∀ k, (hk : k < 14) →
      select4 (cfg.indices.getD k 0) = (cfg.indices.map select4)[k]'(by rw [List.length_map, hlen]; exact hk) := by
    intro k hk
    rw [List.getElem_map, List.getD_eq_getElem _ _ (by rw [hlen]; exact hk)]
  rw [hget i hi, hget j hj]
  exact fun h => hne ((List.Nodup.getElem_inj_iff (select4_indices_nodup hvalid hfits)).mp h)

end Registers

theorem toneLoReg_eq (cfg : Config) {v : Nat} (hv : v < 3) : toneLoReg cfg v = cfg.indices.getD (2 * v) 0 := by
  interval_cases v <;> rfl

theorem toneHiReg_eq (cfg : Config) {v : Nat} (hv : v < 3) : toneHiReg cfg v = cfg.indices.getD (2 * v + 1) 0 := by
  interval_cases v <;> rfl

theorem levelReg_eq (cfg : Config) {v : Nat} (hv : v < 3) : levelReg cfg v = cfg.indices.getD (8 + v) 0 := by
  interval_cases v <;> rfl

theorem mixer_eq (cfg : Config) : cfg.mixer = cfg.indices.getD 7 0 := rfl

theorem envLo_eq (cfg : Config) : cfg.envLo = cfg.indices.getD 11 0 := rfl

theorem envHi_eq (cfg : Config) : cfg.envHi = cfg.indices.getD 12 0 := rfl

/-- Voices of a valid configuration are the three of the chip (R9, R200). -/
theorem voice_lt_three {cfg : Config} (h : cfg.valid = true) {v : Nat} (hv : v < cfg.n) : v < 3 := by
  obtain ⟨⟨-, hn⟩, -⟩ := valid_spec cfg h
  omega

/-! ### Stored values (R71) -/

/-- Where the writes of a list select different registers, each of them holds the masked value written to it. -/
theorem reg_afterWrites_of_nodup {cfg : Config} (hp : cfg.addrPort ≠ cfg.dataPort) (ws : List (Byte × Byte)) (p : Psg)
    (hnodup : (ws.map fun w => select4 w.1).Nodup) {w : Byte × Byte} (hw : w ∈ ws) :
    (Env.afterWrites cfg ws (.present p)).reg (select4 w.1) = some (w.2 &&& wmask cfg (select4 w.1)) := by
  induction ws generalizing p with
  | nil => cases hw
  | cons x ws ih =>
    rw [List.map_cons, List.nodup_cons] at hnodup
    obtain ⟨hx, hnodup⟩ := hnodup
    rw [afterWrites_cons]
    rcases List.mem_cons.mp hw with rfl | hw
    · have hframe : ∀ y ∈ ws, select4 y.1 ≠ select4 w.1 := fun y hy h => hx (h ▸ List.mem_map_of_mem hy)
      rw [reg_afterWrites_frame cfg hp ws _ _ hframe, reg_afterWrite cfg hp, if_pos rfl]
    · rw [afterWrites_one cfg hp]
      exact ih _ hnodup hw

/-- A register read on a present chip answers the register selected (R63, R71). -/
theorem answer_select (cfg : Config) (p : Psg) (q : Byte) :
    ((Env.present p).onWrite cfg cfg.addrPort q).answer = p.read (select4 q) := by
  simp only [Env.onWrite, if_true, Env.answer]
  rfl

/-- The environment of one `RegWrite` is that of a list of one. -/
theorem regWrite_env (r v : Byte) (s : State) : (regWrite r v s).env = s.env.afterWrites s.cfg [(r, v)] := by
  rw [regWrite_eq]
  rfl

theorem regRead_answer (q : Byte) (s : State) : (regRead q s).1 = (s.env.onWrite s.cfg s.cfg.addrPort q).answer := by
  rw [regRead_eq]

/-! ### A note (R213) -/

/-- Low and high byte of a period of the table (R206). -/
theorem periodWrites_eq (cfg : Config) (v : Nat) {period : Nat} (h : period ≤ 4095) :
    periodWrites cfg v period =
      [(toneLoReg cfg v, BitVec.ofNat 8 period), (toneHiReg cfg v, BitVec.ofNat 8 (period / 256))] := by
  have hhigh : ((BitVec.ofNat 12 period).extractLsb' 8 4).setWidth 8 = BitVec.ofNat 8 (period / 256) := by
    apply BitVec.eq_of_toNat_eq
    rw [BitVec.toNat_setWidth, BitVec.extractLsb'_toNat, BitVec.toNat_ofNat, BitVec.toNat_ofNat, Nat.shiftRight_eq_div_pow]
    omega
  rw [periodWrites, hhigh]

/-- The writes of NOTEON with a velocity above 0 (R171, R213). -/
theorem noteOn_instrWrites {s : State} (hvalid : s.cfg.valid = true) (hact : s.active = some .psg) (n : BitVec 7)
    (c : BitVec 4) {v : BitVec 7} (hv : v ≠ 0) :
    instrWrites (.noteOn c n v) s =
      [(toneLoReg s.cfg (noteOnVoice n c s), BitVec.ofNat 8 (noteToPeriod s.cfg n)),
        (toneHiReg s.cfg (noteOnVoice n c s), BitVec.ofNat 8 (noteToPeriod s.cfg n / 256)),
        (levelReg s.cfg (noteOnVoice n c s), (vol4 (v.setWidth 8)).setWidth 8)] := by
  have hbound := (Arithmetic.noteToPeriod_bounds hvalid n).2
  rw [instrWrites, eventWrites, if_pos hact, psgWrites, if_neg hv, periodWrites_eq _ _ hbound, Routing.levelWrite_plain]
  rfl

/-- The voice a NoteOn takes is in the table (R158, R171). -/
theorem noteOnVoice_lt {s : State} (h : s.Inv) (n : BitVec 7) (c : BitVec 4) : noteOnVoice n c s < s.cfg.n := by
  have hne : s.voices ≠ [] := by
    obtain ⟨⟨hn, -⟩, -⟩ := valid_spec s.cfg h.config
    intro hnil
    rw [← h.size, hnil] at hn
    exact absurd hn (by decide)
  rw [← h.size, noteOnVoice]
  cases hfind : findByNote n c s with
  | some w => exact (findByNote_some s n c w hfind).1
  | none => exact allocIndex_lt s hne

/-- The three registers of a voice are selected apart (R10, R200). -/
theorem voiceWrites_nodup {cfg : Config} (hvalid : cfg.valid = true) (hfits : cfg.chipFits = true) {v : Nat} (hv : v < 3)
    (lo hi lev : Byte) :
    ([(toneLoReg cfg v, lo), (toneHiReg cfg v, hi), (levelReg cfg v, lev)].map fun w => select4 w.1).Nodup := by
  have hne := fun i j => select4_ne hvalid hfits (i := i) (j := j)
  simp only [toneLoReg_eq cfg hv, toneHiReg_eq cfg hv, levelReg_eq cfg hv, List.map_cons, List.map_nil, List.nodup_cons,
    List.mem_cons, List.not_mem_nil, or_false, not_or, not_false_iff, List.nodup_nil, and_true]
  exact ⟨⟨hne _ _ (by omega) (by omega) (by omega), hne _ _ (by omega) (by omega) (by omega)⟩,
    hne _ _ (by omega) (by omega) (by omega)⟩

/-! ### Attack and release (R216, R219) -/

section Envelope

variable {s : State} {p : Psg} (hvalid : s.cfg.valid = true) (hfits : s.cfg.chipFits = true) (henv : s.env = .present p)
include hvalid hfits henv

theorem envelope_setAttack {v : Nat} (hv : v < 3) (a : Byte) :
    (setAttack v a s).env.reg (select4 s.cfg.envLo) =
        some ((envPair s.cfg (scale8 a)).1 &&& wmask s.cfg (select4 s.cfg.envLo)) ∧
      (setAttack v a s).env.reg (select4 s.cfg.envHi) =
        some ((envPair s.cfg (scale8 a)).2 &&& wmask s.cfg (select4 s.cfg.envHi)) := by
  obtain ⟨-, hp, -⟩ := valid_spec s.cfg hvalid
  have hne := fun i j => select4_ne hvalid hfits (i := i) (j := j)
  have hnodup : ((envPeriodWrites s.cfg a ++ [levelWrite s.cfg v (levelToEnvelope (s.shadow v))]).map
      fun w => select4 w.1).Nodup := by
    simp only [envPeriodWrites, levelWrite, envLo_eq, envHi_eq, levelReg_eq s.cfg hv, List.cons_append, List.nil_append,
      List.map_cons, List.map_nil, List.nodup_cons, List.mem_cons, List.not_mem_nil, or_false, not_or, not_false_iff,
      List.nodup_nil, and_true]
    exact ⟨⟨hne 11 12 (by omega) (by omega) (by omega), hne 11 (8 + v) (by omega) (by omega) (by omega)⟩,
      hne 12 (8 + v) (by omega) (by omega) (by omega)⟩
  have hreg := fun w hw => reg_afterWrites_of_nodup hp _ p hnodup (w := w) hw
  have heq : (setAttack v a s).env = Env.afterWrites s.cfg
      (envPeriodWrites s.cfg a ++ [levelWrite s.cfg v (levelToEnvelope (s.shadow v))]) (.present p) := by
    rw [setAttack_eq, henv]
  rw [heq]
  exact ⟨hreg (s.cfg.envLo, _) (by simp [envPeriodWrites]), hreg (s.cfg.envHi, _) (by simp [envPeriodWrites])⟩

theorem envelope_setRelease (w : Nat) (r : Byte) :
    (setRelease w r s).env.reg (select4 s.cfg.envLo) =
        some ((envPair s.cfg (scale8 r)).1 &&& wmask s.cfg (select4 s.cfg.envLo)) ∧
      (setRelease w r s).env.reg (select4 s.cfg.envHi) =
        some ((envPair s.cfg (scale8 r)).2 &&& wmask s.cfg (select4 s.cfg.envHi)) := by
  obtain ⟨-, hp, -⟩ := valid_spec s.cfg hvalid
  have hnodup : ((envPeriodWrites s.cfg r).map fun w => select4 w.1).Nodup := by
    simp only [envPeriodWrites, List.map_cons, List.map_nil, List.nodup_cons, List.mem_cons, List.not_mem_nil, or_false,
      not_false_iff, List.nodup_nil, and_true]
    exact select4_ne hvalid hfits (i := 11) (j := 12) (by omega) (by omega) (by omega)
  have hreg := fun w hw => reg_afterWrites_of_nodup hp _ p hnodup (w := w) hw
  have heq : (setRelease w r s).env = Env.afterWrites s.cfg (envPeriodWrites s.cfg r) (.present p) := by
    rw [setRelease_eq, henv]
  rw [heq]
  exact ⟨hreg (s.cfg.envLo, _) (by simp [envPeriodWrites]), hreg (s.cfg.envHi, _) (by simp [envPeriodWrites])⟩

end Envelope

theorem setAttack_cfg (v : Nat) (a : Byte) (s : State) : (setAttack v a s).cfg = s.cfg := by rw [setAttack_eq]

theorem setRelease_cfg (w : Nat) (r : Byte) (s : State) : (setRelease w r s).cfg = s.cfg := by rw [setRelease_eq]

theorem shadow_setRelease (w : Nat) (r : Byte) (s : State) (v : Nat) : (setRelease w r s).shadow v = s.shadow v := by
  rw [setRelease_eq]
  rfl

/-! ### The obligations -/

/-- Settles O25: the three writes of NOTEON select three registers of its voice, which is in the table. -/
theorem noteOnStoresPeriodAndLevel : Obligations.NoteOnStoresPeriodAndLevel := by
  intro s t p c n v hinv hfits henv hact hv ht
  have hvalid := hinv.config
  obtain ⟨-, hp, -⟩ := valid_spec s.cfg hvalid
  have hvoice := noteOnVoice_lt hinv n c
  have hwrites := noteOn_instrWrites hvalid hact n c hv
  have hnodup := voiceWrites_nodup hvalid hfits (voice_lt_three hvalid hvoice)
    (BitVec.ofNat 8 (noteToPeriod s.cfg n)) (BitVec.ofNat 8 (noteToPeriod s.cfg n / 256)) ((vol4 (v.setWidth 8)).setWidth 8)
  have hreg := fun w hw => reg_afterWrites_of_nodup hp _ p hnodup (w := w) hw
  rw [Frames.exec_env s ht, hwrites, henv]
  exact ⟨hvoice, hreg _ (List.mem_cons_self ..), hreg _ (List.mem_cons_of_mem _ (List.mem_cons_self ..)),
    hreg _ (List.mem_cons_of_mem _ (List.mem_cons_of_mem _ (List.mem_cons_self ..)))⟩

/-- Settles O26: by `regWrite_eq`. -/
theorem regWriteIsTwoPhase : Obligations.RegWriteIsTwoPhase := by
  intro r v s
  exact ⟨_, regWrite_eq r v s⟩

/-- Settles O27: a read answers the register selected, which a write stored or left. -/
theorem registerReadsBackWhatWasWritten : Obligations.RegisterReadsBackWhatWasWritten := by
  intro s
  refine ⟨fun r => ?_, fun p r v q hp henv => ?_, fun x r v q henv => ?_⟩
  · rw [regRead_eq]
    exact ⟨_, rfl⟩
  · have hwritten : (regWrite r v s).env = .present (({ p with addr := select4 r } : Psg).write s.cfg (select4 r) v) := by
      rw [regWrite_env, henv, afterWrites_one s.cfg hp]
    have hcfg : (regWrite r v s).cfg = s.cfg := by rw [regWrite_eq]
    refine ⟨?_, fun hne => ?_, _, hwritten, rfl⟩
    · rw [regRead_answer, hwritten, hcfg, answer_select, read_write_self]
      rfl
    · rw [regRead_answer, regRead_answer, hwritten, henv, hcfg, answer_select, answer_select,
        read_write_other s.cfg _ (select4 r) (select4 q) v hne]
      rfl
  · have hwritten : (regWrite r v s).env = .absent x := by
      rw [regWrite_env, henv]
      rfl
    refine ⟨?_, hwritten⟩
    rw [regRead_answer, hwritten]
    rfl

/-- Settles O46: the fourteen writes of `init` select the fourteen registers. -/
theorem initDeterminesTheChip : Obligations.InitDeterminesTheChip := by
  intro s p hvalid hfits henv
  obtain ⟨-, hp, -⟩ := valid_spec s.cfg hvalid
  have heq : (driverInit s).env = Env.afterWrites s.cfg (initWrites s.cfg) (.present p) := by rw [driverInit_eq, henv]
  refine ⟨fun w hw => ?_, by rw [driverInit_eq]; rfl, fun v => ?_, by rw [driverInit_eq], by rw [driverInit_eq]⟩
  · rw [heq]
    exact reg_afterWrites_of_nodup hp (initWrites s.cfg) p (select4_indices_nodup hvalid hfits) hw
  · rw [driverInit_eq, State.shadow]
    by_cases hv : v < 3 <;> simp [hv]

/-- Settles O47: whichever of the two comes last wrote both envelope registers; only attack writes the shadow. -/
theorem attackAndReleaseShareTheEnvelope : Obligations.AttackAndReleaseShareTheEnvelope := by
  intro s p v w a r hvalid hfits henv hv
  obtain ⟨-, hp, -⟩ := valid_spec s.cfg hvalid
  have hrc := setRelease_cfg w r s
  have hac := setAttack_cfg v a s
  obtain ⟨p1, hrel⟩ : ∃ q, (setRelease w r s).env = .present q := by
    rw [setRelease_eq, henv]
    exact afterWrites_present s.cfg hp _ p
  obtain ⟨p2, hatt⟩ : ∃ q, (setAttack v a s).env = .present q := by
    rw [setAttack_eq, henv]
    exact afterWrites_present s.cfg hp _ p
  have hAR := envelope_setAttack (s := setRelease w r s) (by rwa [hrc]) (by rwa [hrc]) hrel hv a
  have hRA := envelope_setRelease (s := setAttack v a s) (by rwa [hac]) (by rwa [hac]) hatt w r
  rw [hrc] at hAR
  rw [hac] at hRA
  simp only [List.forall_mem_cons]
  refine ⟨⟨envelope_setAttack hvalid hfits henv hv a, hAR, List.forall_mem_nil _⟩,
    ⟨envelope_setRelease hvalid hfits henv w r, hRA, List.forall_mem_nil _⟩, ?_, ?_, ?_, List.forall_mem_nil _⟩
  · simp [Arithmetic.shadow_setAttack s hv]
  · simp [Arithmetic.shadow_setAttack (setRelease w r s) hv, shadow_setRelease]
  · simp [Arithmetic.shadow_setAttack s hv, shadow_setRelease]

end Sys2Proof.Chip
end

section
/-! Host commands, the registry and construction (R182 to R186, R210 to R212, R300 to R303): when an `Op` is refused, what
`all_off`, `panic`, `select` and the block's reset leave, and what construction checks. -/

namespace Sys2Proof.HostOps

open Sys2Proof.Machine Sys2Proof.Laws

/-! ### When an `Op` is refused (R185, R29) -/

/-- `argError` names an argument exactly where `wellFormed` fails. -/
theorem argError_eq_none_iff (n : Nat) (f : BackendOp) : argError n f = none ↔ f.wellFormed n = true := by
  cases f with
  | noteOn voice note velocity channel =>
    simp only [argError, BackendOp.wellFormed, Bool.and_eq_true, decide_eq_true_eq]
    split_ifs <;> simp <;> omega
  | noteOff voice | setVolume voice _ | setAttack voice _ | setDecay voice _ | setSustain voice _ | setRelease voice _ =>
    simp [argError, BackendOp.wellFormed]
  | setPitchBend value =>
    simp only [argError, BackendOp.wellFormed, Bool.and_eq_true, decide_eq_true_eq]
    split_ifs <;> simp <;> omega
  | init | reset | allOff | setVibrato _ | setTremolo _ | setModulation _ | setPreset _ | panic =>
    simp [argError, BackendOp.wellFormed]

theorem duplicateError_without_backend (f : BackendOp) {s : State} (h : s.active = none) : duplicateError f s = none := by
  unfold duplicateError
  split
  · next hact => rw [h] at hact; cases hact
  · rfl

theorem duplicateError_noteOn {s : State} (h : s.active = some .psg) (voice : Nat) (note velocity channel : Byte) :
    duplicateError (.noteOn voice note velocity channel) s =
      if soundsElsewhere voice (note.setWidth 7) (channel.setWidth 4) s then some .duplicateNote else none := by
  simp only [duplicateError, h]

/-- Any other operation has no duplicate. -/
theorem duplicateError_eq_none {f : BackendOp} {s : State} (h : s.active = some .psg)
    (hdup : ∀ voice note velocity channel, f = .noteOn voice note velocity channel →
      soundsElsewhere voice (note.setWidth 7) (channel.setWidth 4) s = false) : duplicateError f s = none := by
  cases f with
  | noteOn voice note velocity channel =>
    rw [duplicateError_noteOn h, hdup voice note velocity channel rfl]
    rfl
  | _ => rfl

theorem execOp_of_opError_none {f : BackendOp} {s : State} (h : opError f s = none) :
    execCmd (.op f) s = .next ((ifActive (runOp f) s).addResult none) := by
  rw [execCmd, execOp, h]

theorem execOp_of_opError_some {f : BackendOp} {s : State} {r : Refusal} (h : opError f s = some r) :
    execCmd (.op f) s = .refused r := by
  rw [execCmd, execOp, h]

theorem ifActive_psg (f : State → State) {s : State} (h : s.active = some .psg) : ifActive f s = f s := by
  rw [ifActive, h]

theorem ifActive_none (f : State → State) {s : State} (h : s.active = none) : ifActive f s = s := by
  rw [ifActive, h]

/-! ### What a backend operation can change (R181) -/

/-- From `s` to `t` the driver performed the register writes `ws`, and moved at most the voice table, the counter and the
shadows. -/
def Drives (ws : List (Byte × Byte)) (s t : State) : Prop :=
  ∃ vs c lv,
    t = { s with
      voices := vs
      counter := c
      lvl := lv
      trace := s.trace ++ writesTrace s.cfg ws
      env := s.env.afterWrites s.cfg ws }

namespace Drives

theorem refl (s : State) : Drives [] s s :=
  ⟨s.voices, s.counter, s.lvl, by simp [writesTrace, Env.afterWrites]⟩

theorem trans {as bs : List (Byte × Byte)} {s t u : State} (h : Drives as s t) (k : Drives bs t u) :
    Drives (as ++ bs) s u := by
  obtain ⟨vs, c, lv, rfl⟩ := h
  obtain ⟨vs', c', lv', rfl⟩ := k
  exact ⟨vs', c', lv', by rw [writesTrace_append, afterWrites_append, ← List.append_assoc]⟩

theorem setActive {ws : List (Byte × Byte)} {s t : State} (h : Drives ws s t) (b : Option Backend) :
    Drives ws (s.setActive b) (t.setActive b) := by
  obtain ⟨vs, c, lv, rfl⟩ := h
  exact ⟨vs, c, lv, rfl⟩

end Drives

theorem drives_allOff (s : State) : ∃ ws, Drives ws s (allOff s) := ⟨_, _, _, _, allOff_eq s⟩

theorem drives_driverInit (s : State) : ∃ ws, Drives ws s (driverInit s) := ⟨_, _, _, _, driverInit_eq s⟩

theorem drives_runOp (f : BackendOp) (s : State) : ∃ ws, Drives ws s (runOp f s) := by
  cases f with
  | init | reset => exact drives_driverInit s
  | allOff => exact drives_allOff s
  | panic => exact ⟨_, _, _, _, driverPanic_eq s⟩
  | noteOn voice note velocity channel =>
    obtain ⟨vs, h⟩ := noteOn_effect s voice (note.setWidth 7) (velocity.setWidth 7) (channel.setWidth 4)
    exact ⟨_, vs, _, _, h⟩
  | noteOff voice => exact ⟨_, _, _, _, noteOff_eq s voice⟩
  | setVolume voice value => exact ⟨_, _, _, _, setVolume_eq s voice value⟩
  | setAttack voice value => exact ⟨_, _, _, _, setAttack_eq s voice value⟩
  | setDecay voice value => exact ⟨_, _, _, _, setDecay_eq s voice value⟩
  | setSustain voice value => exact ⟨_, _, _, _, setSustain_eq s voice value⟩
  | setRelease voice value => exact ⟨_, _, _, _, setRelease_eq s voice value⟩
  | setPitchBend value => exact ⟨_, _, _, _, setPitchBend_eq s value⟩
  | setPreset program => exact ⟨_, _, _, _, setPreset_eq s program⟩
  | setVibrato value | setTremolo value | setModulation value =>
    exact ⟨[], .refl s⟩

theorem runOp_results (f : BackendOp) (s : State) : (runOp f s).results = s.results := by
  obtain ⟨ws, vs, c, lv, h⟩ := drives_runOp f s
  rw [h]

/-! ### Silence (R212, R234) -/

/-- In a table of `N` voices `all_off` silences every one. -/
theorem silenced_voices {s : State} (h : s.voices.length = s.cfg.n) :
    s.voices.mapIdx (fun i x => if i < s.cfg.n then { x with active := false } else x) =
      s.voices.map fun x => { x with active := false } := by
  apply List.ext_getElem
  · rw [List.length_mapIdx, List.length_map]
  · intro i hi hi'
    rw [List.length_mapIdx, h] at hi
    rw [List.getElem_mapIdx, List.getElem_map, if_pos hi]

/-- The shadows after `all_off`: 0 for a voice of the table. -/
theorem silenced_shadow (s : State) {v : Nat} (hv : v < 3) :
    ((s.lvl.mapIdx fun i x => if i < s.cfg.n then 0 else x)[v]?).getD 0 = if v < s.cfg.n then 0 else s.shadow v := by
  rw [State.shadow, Vector.getElem?_eq_getElem hv, Vector.getElem_mapIdx, Vector.getElem?_eq_getElem hv]
  rfl

theorem isDetected_of_detected {s : State} (h : s.detected = 1) : s.isDetected .psg = true := by
  rw [State.isDetected, h]
  rfl

/-- `select` of a detected kind (R183). -/
theorem select_of_detected {s : State} (h : s.detected = 1) :
    select 0 s = (true, driverInit ((silenceOutgoing s).setActive (some .psg))) := by
  simp only [select, Registry.kindOf_zero, isDetected_of_detected h, if_true]
  rfl

/-! ### Construction (R272, R276, R303) -/

/-- A constraint that fails is named. -/
theorem mem_errors_equalPorts {cfg : Config} (h : cfg.addrPort = cfg.dataPort) : ConfigError.equalPorts ∈ cfg.errors := by
  simp [Config.errors, h]

theorem mem_errors_noVoices {cfg : Config} (h : cfg.n = 0) : ConfigError.noVoices ∈ cfg.errors := by
  simp [Config.errors, h]

theorem construct_of_error {cfg : Config} (env : Env) {e : ConfigError} (h : e ∈ cfg.errors) :
    construct cfg env = .error cfg.errors := by
  have hvalid : cfg.valid ≠ true := by
    rw [Config.valid, Ne, List.isEmpty_iff]
    rintro hnil
    rw [hnil] at h
    cases h
  rw [construct, if_neg hvalid]

/-! ### The obligations -/

/-- Settles O43: `argError` is none exactly on the domain, and `duplicateError` is the one further refusal. -/
theorem hostOpsCompleteOnTheirDomain : Obligations.HostOpsCompleteOnTheirDomain := by
  intro f s
  refine ⟨fun hwf => ?_, fun hwf hact => ?_, fun hwf hact hdup => ?_, ?_⟩
  · cases harg : argError s.cfg.n f with
    | none => rw [(argError_eq_none_iff s.cfg.n f).mp harg] at hwf; cases hwf
    | some r => exact ⟨r, execOp_of_opError_some (by rw [opError, harg]; rfl)⟩
  · have hnone : opError f s = none := by
      rw [opError, (argError_eq_none_iff s.cfg.n f).mpr hwf, duplicateError_without_backend f hact]
      rfl
    rw [execOp_of_opError_none hnone, ifActive_none _ hact]
    rfl
  · have hnone : opError f s = none := by
      rw [opError, (argError_eq_none_iff s.cfg.n f).mpr hwf, duplicateError_eq_none hact hdup]
      rfl
    rw [execOp_of_opError_none hnone, ifActive_psg _ hact, State.addResult, runOp_results]
  · rintro voice note velocity channel rfl hwf hact hdup
    refine execOp_of_opError_some ?_
    rw [opError, (argError_eq_none_iff s.cfg.n _).mpr hwf, duplicateError_noteOn hact, hdup]
    rfl

/-- Settles O44: the equations of `all_off` and `panic`, with the whole table silenced. -/
theorem allOffAndPanicSilenceEveryVoice : Obligations.AllOffAndPanicSilenceEveryVoice := by
  constructor
  · intro s hact
    rw [execCmd, ifActive_none _ hact]
    rfl
  · intro s hact hsize
    refine ⟨s.lvl.mapIdx fun i x => if i < s.cfg.n then 0 else x, fun v hv => silenced_shadow s hv, ?_, ?_⟩
    · have hnone : opError .allOff s = none := rfl
      rw [execOp_of_opError_none hnone, ifActive_psg _ hact, runOp, allOff_eq, silenced_voices hsize]
      rfl
    · rw [execCmd, ifActive_psg _ hact, driverPanic_eq, silenced_voices hsize]
      rfl

/-- Settles O48: `resetBlock` writes these values. -/
theorem resetRestoresTheBlock : Obligations.ResetRestoresTheBlock := fun _ => ⟨rfl, rfl⟩

/-- Settles O50: `all_off` of the outgoing backend, if there is one, and then `init`. -/
theorem selectSilencesThenInitialises : Obligations.SelectSilencesThenInitialises := by
  intro s ws hdet hws
  subst hws
  rw [execCmd, select_of_detected hdet, driverInit_eq, silenceOutgoing]
  cases hact : s.active with
  | none =>
    rw [if_neg (by simp), List.nil_append]
    rfl
  | some k =>
    cases k
    rw [if_pos rfl, writesTrace_append, afterWrites_append, ← List.append_assoc]
    simp only [allOff_eq]
    rfl

/-- Settles O59: a failed constraint is named in `errors`, and a valid configuration has none. -/
theorem constructionValidates : Obligations.ConstructionValidates := by
  intro cfg env
  refine ⟨fun h => ?_, fun h => ?_, fun h => ?_⟩
  · exact ⟨cfg.errors, construct_of_error env (mem_errors_equalPorts h), mem_errors_equalPorts h⟩
  · exact ⟨cfg.errors, construct_of_error env (mem_errors_noVoices h), mem_errors_noVoices h⟩
  · refine ⟨State.initial cfg env, if_pos h, rfl, rfl, rfl, rfl, rfl, rfl, rfl, rfl, rfl, rfl, rfl⟩

end Sys2Proof.HostOps
end

section
/-! What a step can do, said once (R7, R185, R187): bytes one after another, or one command, and of the commands only
`Detect` does more on the bus than register writes. -/

namespace Sys2Proof.Steps

open Sys2Proof.Machine Sys2Proof.Laws Sys2Proof.Bytes Sys2Proof.HostOps

/-- A step takes bytes of the stream, perhaps none, or one command. -/
theorem step_bytes_or_cmd {s t : State} (h : step s = .next t) :
    (∃ bs q, t = takeBytes bs (s.setInput q)) ∨
      ∃ c rest, s.input = .cmd c :: rest ∧ execCmd c (s.setInput rest) = .next t := by
  rcases step_cases s h with ⟨-, rfl⟩ | hcmd | ⟨u, i, rest, q, -, -, hexec⟩ | ⟨rest, -, rfl⟩
  · exact .inl ⟨[], t.input, rfl⟩
  · exact .inr hcmd
  · rw [exec_eq_takeBytes] at hexec
    cases hexec
    exact .inl ⟨encodeBytes i, q, rfl⟩
  · exact .inl ⟨[], rest, rfl⟩

/-- The operation a command runs on the active backend, if it is such a command (R185). -/
def RunsOp (c : HostCmd) (f : BackendOp) : Prop := c = .op f ∨ c = .panic ∧ f = .panic

/-- A command other than `Detect` that completes resets the block, selects the PSG, runs an operation of the active PSG,
or leaves a result and nothing more. -/
theorem execCmd_cases {c : HostCmd} {s t : State} (h : execCmd c s = .next t) (hdet : c ≠ .detect) :
    ((c = .reset ∨ c = .reinit) ∧ t = (resetBlock s).addResult none) ∨
    ((∃ kind, c = .select kind) ∧
      t = (driverInit ((silenceOutgoing s).setActive (some .psg))).addResult (some true)) ∨
    (∃ f, RunsOp c f ∧ s.active = some .psg ∧ opError f s = none ∧ t = (runOp f s).addResult none) ∨
    (∃ r, t = s.addResult r) := by
  have hrun : ∀ f, RunsOp c f → opError f s = none → t = (ifActive (runOp f) s).addResult none →
      (∃ f, RunsOp c f ∧ s.active = some .psg ∧ opError f s = none ∧ t = (runOp f s).addResult none) ∨
        (∃ r, t = s.addResult r) := by
    intro f hf he ht
    cases hact : s.active with
    | none => rw [ifActive_none _ hact] at ht; exact .inr ⟨none, ht⟩
    | some k => cases k; rw [ifActive_psg _ hact] at ht; exact .inl ⟨f, hf, rfl, he, ht⟩
  cases c with
  | detect => exact absurd rfl hdet
  | reset => cases h; exact .inl ⟨.inl rfl, rfl⟩
  | reinit => cases h; exact .inl ⟨.inr rfl, rfl⟩
  | panic => cases h; exact .inr (.inr (hrun .panic (.inr ⟨rfl, rfl⟩) rfl rfl))
  | op f =>
    cases he : opError f s with
    | some r => rw [execOp_of_opError_some he] at h; cases h
    | none => rw [execOp_of_opError_none he] at h; cases h; exact .inr (.inr (hrun f (.inl rfl) he rfl))
  | select kind =>
    by_cases hk : kind = 0 ∧ s.detected = 1
    · obtain ⟨rfl, hd⟩ := hk
      rw [execCmd, select_of_detected hd] at h
      cases h
      exact .inr (.inl ⟨⟨0, rfl⟩, rfl⟩)
    · have hfail : kind ≠ 0 ∨ s.detected = 0 := by
        have hbit : ∀ d : BitVec 1, d = 1 ∨ d = 0 := by decide
        rcases hbit s.detected with hd | hd
        · exact .inl fun h0 => hk ⟨h0, hd⟩
        · exact .inr hd
      rw [Registry.selectOfUndetectedFails s kind hfail] at h
      cases h
      exact .inr (.inr (.inr ⟨some false, rfl⟩))

/-- A successful `select` is driver writes on the state with the PSG active (R183). -/
theorem drives_select (s : State) :
    ∃ ws, Drives ws (s.setActive (some .psg)) (driverInit ((silenceOutgoing s).setActive (some .psg))) := by
  have hsilence : ∃ ws, Drives ws s (silenceOutgoing s) := by
    unfold silenceOutgoing
    split
    · exact drives_allOff s
    · exact ⟨[], .refl s⟩
  obtain ⟨ws, hs⟩ := hsilence
  obtain ⟨us, hu⟩ := drives_driverInit ((silenceOutgoing s).setActive (some .psg))
  exact ⟨ws ++ us, (hs.setActive _).trans hu⟩

/-! ### Steps that write and do not read (R74) -/

/-- From `s` to `t` the trace and the environment moved by register writes alone, under one configuration. -/
def Writes (s t : State) : Prop :=
  t.cfg = s.cfg ∧ ∃ ws, t.trace = s.trace ++ writesTrace s.cfg ws ∧ t.env = s.env.afterWrites s.cfg ws

namespace Writes

theorem none {s t : State} (hc : t.cfg = s.cfg) (ht : t.trace = s.trace) (he : t.env = s.env) : Writes s t :=
  ⟨hc, [], by simp [ht, writesTrace], by simp [he, Env.afterWrites]⟩

theorem trans {s t u : State} (h : Writes s t) (k : Writes t u) : Writes s u := by
  obtain ⟨hc, ws, ht, he⟩ := h
  obtain ⟨kc, us, kt, ke⟩ := k
  rw [hc] at kc kt ke
  exact ⟨kc, ws ++ us, by rw [kt, ht, writesTrace_append, List.append_assoc], by rw [ke, he, afterWrites_append]⟩

theorem of_drives {ws : List (Byte × Byte)} {s t : State} (h : Drives ws s t) : Writes s t := by
  obtain ⟨vs, c, lv, rfl⟩ := h
  exact ⟨rfl, ws, rfl, rfl⟩

end Writes

theorem writes_takeBytes (bs : List Byte) (s : State) : Writes s (takeBytes bs s) := by
  obtain ⟨vs, c, lv, h⟩ := Frames.takeBytes_effect s bs
  rw [h]
  exact ⟨rfl, _, rfl, rfl⟩

theorem writes_execCmd {c : HostCmd} {s t : State} (h : execCmd c s = .next t) (hdet : c ≠ .detect) : Writes s t := by
  have hresult : ∀ (u : State) (r : Option Bool), Writes u (u.addResult r) := fun u r => .none rfl rfl rfl
  rcases execCmd_cases h hdet with ⟨-, rfl⟩ | ⟨-, rfl⟩ | ⟨f, -, -, -, rfl⟩ | ⟨r, rfl⟩
  · exact .none rfl rfl rfl
  · obtain ⟨ws, hd⟩ := drives_select s
    have hactive : Writes s (s.setActive (some .psg)) := .none rfl rfl rfl
    exact (hactive.trans (.of_drives hd)).trans (hresult _ _)
  · obtain ⟨ws, hd⟩ := drives_runOp f s
    exact (Writes.of_drives hd).trans (hresult _ _)
  · exact hresult s r

theorem writes_step {s t : State} (h : step s = .next t) (hdet : ∀ rest, s.input ≠ .cmd .detect :: rest) :
    Writes s t := by
  rcases step_bytes_or_cmd h with ⟨bs, q, rfl⟩ | ⟨c, rest, hi, hc⟩
  · exact writes_takeBytes bs (s.setInput q)
  · have hw := writes_execCmd hc fun hd => hdet rest (hd ▸ hi)
    exact hw

/-- Register writes are whole transactions (R62). -/
theorem disciplined_writes (cfg : Config) (ws : List (Byte × Byte)) : Disciplined cfg (writesTrace cfg ws) := by
  induction ws with
  | nil => exact .nil
  | cons w ws ih => rw [writesTrace_cons]; exact .write w.1 w.2 _ ih

/-! ### The obligations -/

/-- Settles O29: by `writes_step`. -/
theorem onlyDetectionReadsTheBus : Obligations.OnlyDetectionReadsTheBus := fun _ _ h hdet =>
  (writes_step h hdet).2

/-- Settles O28: a detection run is one window by `detectPsg_effect`; any other step appends writes. -/
theorem everyStepKeepsBusDiscipline : Obligations.EveryStepKeepsBusDiscipline := by
  intro s t h
  by_cases hdet : ∃ rest, s.input = .cmd .detect :: rest
  · obtain ⟨rest, hi⟩ := hdet
    obtain ⟨body, e, hguard, hrun⟩ := detectPsg_effect (s.setInput rest)
    rw [step_cmd s hi, execCmd_detect, hrun] at h
    cases h
    exact ⟨_, rfl, .window body [] hguard .nil⟩
  · obtain ⟨-, ws, htrace, -⟩ := writes_step h fun rest hi => hdet ⟨rest, hi⟩
    exact ⟨_, htrace, disciplined_writes s.cfg ws⟩

end Sys2Proof.Steps
end

section
/-! Detection (R250 to R263). A run is described by what the environment makes of it, apart from the state: the answer to a
read (`readEnv`), to one write-and-read test (`probe`), and to tests in order up to the first that does not match
(`probes`). `detectPsg_eq` ties the three to the protocol; each environment then has its own lemma. -/

namespace Sys2Proof.Detection

open Sys2Proof.Machine Sys2Proof.Laws

/-- The register, the value written and the mask of one test (R253 to R255). -/
abbrev Test := Byte × Byte × Byte

/-! ### What the environment makes of a run -/

/-- The answer to `RegRead(r)`, and the environment after it (R63). -/
def readEnv (cfg : Config) (r : Byte) (e : Env) : Byte × Env :=
  ((e.onWrite cfg cfg.addrPort r).answer, (e.onWrite cfg cfg.addrPort r).onRead)

/-- The answer to one test, and the environment after it (R253). -/
def probe (cfg : Config) (q : Test) (e : Env) : Byte × Env := readEnv cfg q.1 (e.afterWrites cfg [(q.1, q.2.1)])

/-- The tests run, each with its answer, and the environment after them: they stop at the first answer that does not match
(R258). -/
def probes (cfg : Config) : List Test → Env → List (Test × Byte) × Env
  | [], e => ([], e)
  | q :: qs, e =>
    if testMatches (q, (probe cfg q e).1) then
      ((q, (probe cfg q e).1) :: (probes cfg qs (probe cfg q e).2).1, (probes cfg qs (probe cfg q e).2).2)
    else ([(q, (probe cfg q e).1)], (probe cfg q e).2)

/-- The four values first read, and the environment after that (R252). -/
def readCheckpoint (cfg : Config) (e : Env) : Checkpoint × Env :=
  let a := readEnv cfg cfg.mixer e
  let b := readEnv cfg cfg.level[0] a.2
  let c := readEnv cfg cfg.level[1] b.2
  let d := readEnv cfg cfg.toneLo[0] c.2
  (⟨a.1, b.1, c.1, d.1⟩, d.2)

/-- The trace of tests with their answers. -/
def probesTrace (cfg : Config) (tested : List (Test × Byte)) : List BusAction :=
  tested.flatMap fun q => writeTrace cfg (q.1.1, q.1.2.1) ++ readTrace cfg q.1.1 q.2

/-- The four restore writes (R256). -/
def restoreWrites (cfg : Config) (c : Checkpoint) : List (Byte × Byte) :=
  [(cfg.mixer, c.mix), (cfg.level[0], c.l0), (cfg.level[1], c.l1), (cfg.toneLo[0], c.f)]

/-- The window of a run: masked, the checkpoint, the tests, the restore, unmasked (R251, R257). -/
def windowTrace (cfg : Config) (c : Checkpoint) (tested : List (Test × Byte)) : List BusAction :=
  [.mask] ++ readTrace cfg cfg.mixer c.mix ++ readTrace cfg cfg.level[0] c.l0 ++ readTrace cfg cfg.level[1] c.l1 ++
    readTrace cfg cfg.toneLo[0] c.f ++ probesTrace cfg tested ++ writesTrace cfg (restoreWrites cfg c) ++ [.unmask]

theorem probes_cons_of_match {cfg : Config} {q : Test} {e : Env} (qs : List Test)
    (h : testMatches (q, (probe cfg q e).1) = true) :
    probes cfg (q :: qs) e =
      ((q, (probe cfg q e).1) :: (probes cfg qs (probe cfg q e).2).1, (probes cfg qs (probe cfg q e).2).2) := if_pos h

theorem probes_cons_of_mismatch {cfg : Config} {q : Test} {e : Env} (qs : List Test)
    (h : testMatches (q, (probe cfg q e).1) = false) :
    probes cfg (q :: qs) e = ([(q, (probe cfg q e).1)], (probe cfg q e).2) := if_neg (by simp [h])

/-- Either every test was run and matched, or the last one run is the first that does not. -/
theorem probes_cases (cfg : Config) (qs : List Test) (e : Env) :
    ((probes cfg qs e).1.map Prod.fst = qs ∧ ∀ q ∈ (probes cfg qs e).1, testMatches q = true) ∨
      ∃ init x, (probes cfg qs e).1 = init ++ [x] ∧ (init ++ [x]).map Prod.fst <+: qs ∧
        (∀ q ∈ init, testMatches q = true) ∧ testMatches x = false := by
  induction qs generalizing e with
  | nil => exact .inl ⟨rfl, List.forall_mem_nil _⟩
  | cons q qs ih =>
    cases h : testMatches (q, (probe cfg q e).1) with
    | false =>
      rw [probes_cons_of_mismatch qs h]
      exact .inr ⟨[], _, rfl, ⟨qs, rfl⟩, List.forall_mem_nil _, h⟩
    | true =>
      rw [probes_cons_of_match qs h]
      rcases ih (probe cfg q e).2 with ⟨hall, hm⟩ | ⟨init, x, heq, hpre, hm, hx⟩
      · exact .inl ⟨by rw [List.map_cons, hall], List.forall_mem_cons.mpr ⟨h, hm⟩⟩
      · refine .inr ⟨(q, (probe cfg q e).1) :: init, x, by rw [heq, List.cons_append], ?_,
          List.forall_mem_cons.mpr ⟨h, hm⟩, hx⟩
        rw [List.cons_append, List.map_cons]
        exact (List.cons_prefix_cons).mpr ⟨rfl, hpre⟩

/-! ### The protocol over the state -/

theorem regRead_readEnv (r : Byte) (s : State) :
    regRead r s =
      ((readEnv s.cfg r s.env).1,
        { s with
          trace := s.trace ++ readTrace s.cfg r (readEnv s.cfg r s.env).1
          env := (readEnv s.cfg r s.env).2 }) := regRead_eq r s

/-- Tests in order over the state, to the first that does not match. -/
def runList : List Test → State → Bool × State
  | [], s => (true, s)
  | q :: qs, s =>
    if (regRead q.1 (regWrite q.1 q.2.1 s)).1 &&& q.2.2 = q.2.1 &&& q.2.2 then
      runList qs (regRead q.1 (regWrite q.1 q.2.1 s)).2
    else (false, (regRead q.1 (regWrite q.1 q.2.1 s)).2)

/-- One test over the state: the environment's `probe`, and its trace. -/
theorem regRead_regWrite (q : Test) (s : State) :
    regRead q.1 (regWrite q.1 q.2.1 s) =
      ((probe s.cfg q s.env).1,
        { s with
          trace := s.trace ++ probesTrace s.cfg [(q, (probe s.cfg q s.env).1)]
          env := (probe s.cfg q s.env).2 }) := by
  rw [regWrite_eq, regRead_readEnv]
  simp only [probesTrace, List.flatMap_cons, List.flatMap_nil, List.append_nil, List.append_assoc]
  rfl

theorem probesTrace_cons (cfg : Config) (q : Test × Byte) (qs : List (Test × Byte)) :
    probesTrace cfg (q :: qs) = probesTrace cfg [q] ++ probesTrace cfg qs := by
  simp [probesTrace]

theorem runList_eq (qs : List Test) (s : State) :
    runList qs s =
      ((probes s.cfg qs s.env).1.all testMatches,
        { s with
          trace := s.trace ++ probesTrace s.cfg (probes s.cfg qs s.env).1
          env := (probes s.cfg qs s.env).2 }) := by
  induction qs generalizing s with
  | nil => simp [runList, probes, probesTrace]
  | cons q qs ih =>
    have hm : testMatches (q, (probe s.cfg q s.env).1) = true ↔
        (probe s.cfg q s.env).1 &&& q.2.2 = q.2.1 &&& q.2.2 := by simp [testMatches]
    rw [runList, regRead_regWrite]
    cases h : testMatches (q, (probe s.cfg q s.env).1) with
    | true =>
      rw [if_pos (hm.mp h), ih, probes_cons_of_match qs h, List.all_cons, h,
        probesTrace_cons s.cfg _ (probes s.cfg qs (probe s.cfg q s.env).2).1]
      simp only [Bool.true_and, List.append_assoc]
    | false =>
      rw [if_neg (fun h' => by rw [hm.mpr h'] at h; cases h), probes_cons_of_mismatch qs h]
      simp [h]

theorem runList_append (as bs : List Test) (s : State) :
    runList (as ++ bs) s = if (runList as s).1 then runList bs (runList as s).2 else runList as s := by
  induction as generalizing s with
  | nil => rfl
  | cons q qs ih =>
    rw [List.cons_append, runList, runList, ih]
    split
    · rfl
    · rfl

theorem testPatterns_eq (r mask : Byte) (pats : List Byte) (s : State) :
    testPatterns r mask pats s = runList (pats.map fun pat => (r, pat, mask)) s := by
  induction pats generalizing s with
  | nil => rfl
  | cons pat pats ih => rw [testPatterns, List.map_cons, runList, ih]

theorem testSentinel_eq (s : State) : testSentinel s = runList [(s.cfg.toneLo[0], s.cfg.detectSentinel, 0xFF)] s := by
  have hmask : ∀ x : Byte, x &&& 0xFF = x := by decide
  simp only [testSentinel, runList, hmask]
  split
  · next h => rw [h, beq_self_eq_true]
  · next h => rw [beq_eq_false_iff_ne.mpr h]

/-- The three tests of the protocol are the nine of `detectTests` in order (R253 to R255). -/
theorem runTests_eq (s : State) : runTests s = runList (detectTests s.cfg) s := by
  have hsplit : detectTests s.cfg =
      (patterns.map fun pat => (s.cfg.mixer, pat, s.cfg.mixerRwMask)) ++
        ((patterns.map fun pat => (s.cfg.level[0], pat, s.cfg.levelRwMask)) ++
          [(s.cfg.toneLo[0], s.cfg.detectSentinel, 0xFF)]) := rfl
  have hcfg : ∀ qs (s : State), (runList qs s).2.cfg = s.cfg := fun qs s => by rw [runList_eq]
  simp only [hsplit, runList_append, runTests, testPatterns_eq, testSentinel_eq, hcfg]

theorem checkpoint_eq (s : State) :
    checkpoint s =
      ((readCheckpoint s.cfg s.env).1,
        { s with
          trace := s.trace ++ (readTrace s.cfg s.cfg.mixer (readCheckpoint s.cfg s.env).1.mix ++
            readTrace s.cfg s.cfg.level[0] (readCheckpoint s.cfg s.env).1.l0 ++
            readTrace s.cfg s.cfg.level[1] (readCheckpoint s.cfg s.env).1.l1 ++
            readTrace s.cfg s.cfg.toneLo[0] (readCheckpoint s.cfg s.env).1.f)
          env := (readCheckpoint s.cfg s.env).2 }) := by
  simp only [checkpoint, regRead_readEnv, readCheckpoint, List.append_assoc]

/-- The tests a detection run performs before `e`, with their answers, and the environment after them. -/
def testRun (cfg : Config) (e : Env) : List (Test × Byte) × Env := probes cfg (detectTests cfg) (readCheckpoint cfg e).2

/-- The environment after a detection run. -/
def envAfter (cfg : Config) (e : Env) : Env :=
  (testRun cfg e).2.afterWrites cfg (restoreWrites cfg (readCheckpoint cfg e).1)

/-- The answer of a detection run: every test run matches. -/
def answerOf (cfg : Config) (e : Env) : Bool := (testRun cfg e).1.all testMatches

/-- A detection run, in any environment (R250 to R258). -/
theorem detectPsg_eq (s : State) :
    detectPsg s =
      (answerOf s.cfg s.env,
        { s with
          irqMask := false
          env := envAfter s.cfg s.env
          trace := s.trace ++ windowTrace s.cfg (readCheckpoint s.cfg s.env).1 (testRun s.cfg s.env).1 }) := by
  simp only [detectPsg, irqMask, checkpoint_eq, runTests_eq, runList_eq, restore, regWrites_eq, irqUnmask, answerOf,
    envAfter, testRun, windowTrace, restoreWrites, List.append_assoc]

/-- The command `Detect` records the run's answer (R182, R185). -/
theorem execCmd_detect_eq (s : State) :
    execCmd .detect s = .next
      { s with
        irqMask := false
        env := envAfter s.cfg s.env
        trace := s.trace ++ windowTrace s.cfg (readCheckpoint s.cfg s.env).1 (testRun s.cfg s.env).1
        detected := if answerOf s.cfg s.env then 1 else 0
        results := s.results ++ [some (answerOf s.cfg s.env)] } := by
  rw [execCmd_detect, detectPsg_eq]

/-! ### Listed answers (R70) -/

theorem afterWrites_listed (cfg : Config) (ws : List (Byte × Byte)) (as : List Byte) (n : Nat) :
    Env.afterWrites cfg ws (.unconstrained as n) = .unconstrained as n := by
  induction ws with
  | nil => rfl
  | cons w ws ih => rw [afterWrites_cons]; exact ih

/-- With enough answers listed, the tests read them in order. -/
theorem probes_listed (cfg : Config) (qs : List Test) (as : List Byte) (n : Nat) (h : qs.length ≤ as.length) :
    (probes cfg qs (.unconstrained as n)).1.map Prod.snd = as.take (probes cfg qs (.unconstrained as n)).1.length ∧
      (probes cfg qs (.unconstrained as n)).2 =
        .unconstrained (as.drop (probes cfg qs (.unconstrained as n)).1.length)
          (n + (probes cfg qs (.unconstrained as n)).1.length) := by
  induction qs generalizing as n with
  | nil => exact ⟨rfl, rfl⟩
  | cons q qs ih =>
    match as, h with
    | a :: as, h =>
      have hprobe : probe cfg q (.unconstrained (a :: as) n) = (a, .unconstrained as (n + 1)) := rfl
      cases hm : testMatches (q, (probe cfg q (.unconstrained (a :: as) n)).1) with
      | false =>
        rw [probes_cons_of_mismatch qs hm, hprobe]
        exact ⟨rfl, rfl⟩
      | true =>
        obtain ⟨hvals, henv⟩ := ih as (n + 1) (Nat.le_of_succ_le_succ h)
        rw [probes_cons_of_match qs hm, hprobe]
        refine ⟨congrArg (a :: ·) hvals, henv.trans ?_⟩
        rw [List.length_cons, List.drop_succ_cons, Nat.add_assoc, Nat.add_comm 1]

/-! ### The absent chip (R72, R260) -/

theorem afterWrites_absent (cfg : Config) (ws : List (Byte × Byte)) (x : Byte) :
    Env.afterWrites cfg ws (.absent x) = .absent x := by
  induction ws with
  | nil => rfl
  | cons w ws ih => rw [afterWrites_cons]; exact ih

theorem probes_absent (cfg : Config) (qs : List Test) (x : Byte) :
    (∀ q ∈ (probes cfg qs (.absent x)).1, q.2 = x) ∧ (probes cfg qs (.absent x)).2 = .absent x := by
  induction qs with
  | nil => exact ⟨List.forall_mem_nil _, rfl⟩
  | cons q qs ih =>
    have hprobe : probe cfg q (.absent x) = (x, .absent x) := rfl
    obtain ⟨hvals, henv⟩ := ih
    cases hm : testMatches (q, (probe cfg q (.absent x)).1) with
    | false =>
      rw [probes_cons_of_mismatch qs hm, hprobe]
      exact ⟨List.forall_mem_singleton.mpr rfl, rfl⟩
    | true =>
      rw [probes_cons_of_match qs hm, hprobe]
      exact ⟨List.forall_mem_cons.mpr ⟨rfl, hvals⟩, henv⟩

/-- A constant cannot answer both the pattern 0x00 and the pattern 0xFF under a mask that is not 0. -/
theorem answerOf_absent {cfg : Config} (h : cfg.mixerRwMask ≠ 0) (x : Byte) : answerOf cfg (.absent x) = false := by
  have hvals := (probes_absent cfg (detectTests cfg) x).1
  have hmem : (readCheckpoint cfg (.absent x)).2 = .absent x := rfl
  rw [answerOf, testRun, hmem, ← Bool.not_eq_true, List.all_eq_true]
  intro hall
  have htests : (probes cfg (detectTests cfg) (.absent x)).1.map Prod.fst = detectTests cfg := by
    rcases probes_cases cfg (detectTests cfg) (.absent x) with ⟨heq, -⟩ | ⟨init, y, heq, -, -, hy⟩
    · exact heq
    · have hy' := hall y (by rw [heq]; exact List.mem_append_right _ (List.mem_singleton_self y))
      rw [hy] at hy'
      cases hy'
  have hmatch : ∀ t ∈ detectTests cfg, testMatches (t, x) = true := by
    intro t ht
    rw [← htests, List.mem_map] at ht
    obtain ⟨q, hq, rfl⟩ := ht
    rw [← hvals q hq]
    exact hall q hq
  have h00 := hmatch (cfg.mixer, 0x00, cfg.mixerRwMask) (by simp [detectTests])
  have hFF := hmatch (cfg.mixer, 0xFF, cfg.mixerRwMask) (by simp [detectTests])
  have hones : ∀ m : Byte, 0xFF &&& m = m := by decide
  simp only [testMatches, beq_iff_eq] at h00 hFF
  rw [h00, hones] at hFF
  exact h (hFF.symm.trans BitVec.zero_and)

/-! ### The present chip (R71, R259) -/

/-- Two chips with the same latch and the same registers are one. -/
theorem psg_ext {p q : Psg} (ha : p.addr = q.addr) (hr : ∀ i, p.read i = q.read i) : p = q := by
  obtain ⟨pa, pr⟩ := p
  obtain ⟨qa, qr⟩ := q
  have hreg : pr = qr := by
    apply Vector.ext
    intro i hi
    have h := hr (BitVec.ofNat 4 i)
    simpa [Psg.read, Vector.get_eq_getElem, Nat.mod_eq_of_lt hi] using h
  rw [hreg, show pa = qa from ha]

theorem readEnv_present (cfg : Config) (r : Byte) (p : Psg) :
    readEnv cfg r (.present p) = (p.read (select4 r), .present { p with addr := select4 r }) := by
  rw [readEnv, Chip.answer_select]
  simp only [Env.onWrite, if_true, Env.onRead]
  rfl

theorem readCheckpoint_present (cfg : Config) (p : Psg) :
    readCheckpoint cfg (.present p) =
      (⟨p.read (select4 cfg.mixer), p.read (select4 cfg.level[0]), p.read (select4 cfg.level[1]),
          p.read (select4 cfg.toneLo[0])⟩,
        .present { p with addr := select4 cfg.toneLo[0] }) := by
  simp only [readCheckpoint, readEnv_present]
  rfl

section Present

variable {cfg : Config} (hp : cfg.addrPort ≠ cfg.dataPort)
include hp

/-- A test on a present chip reads back the masked value, and leaves the chip as the write did. -/
theorem probe_present (q : Test) (p : Psg) :
    probe cfg q (.present p) =
      (q.2.1 &&& wmask cfg (select4 q.1), Env.afterWrites cfg [(q.1, q.2.1)] (.present p)) := by
  rw [probe, afterWrites_one cfg hp, readEnv_present, read_write_self]
  rfl

/-- Where the chip stores the bits compared, every test matches (R12, R259). -/
theorem probes_present (qs : List Test) (p : Psg) (h : ∀ q ∈ qs, wmask cfg (select4 q.1) &&& q.2.2 = q.2.2) :
    probes cfg qs (.present p) =
      (qs.map fun q => (q, q.2.1 &&& wmask cfg (select4 q.1)),
        Env.afterWrites cfg (qs.map fun q => (q.1, q.2.1)) (.present p)) := by
  induction qs generalizing p with
  | nil => rfl
  | cons q qs ih =>
    obtain ⟨hq, hqs⟩ := List.forall_mem_cons.mp h
    have hm : testMatches (q, (probe cfg q (.present p)).1) = true := by
      rw [probe_present hp, testMatches, beq_iff_eq, BitVec.and_assoc, hq]
    obtain ⟨u, hu⟩ := afterWrites_present cfg hp [(q.1, q.2.1)] p
    rw [probes_cons_of_match qs hm, probe_present hp, hu, ih u hqs, ← hu]
    rfl

/-- After writes the latch holds the last index written (R71). -/
theorem latch_afterWrites (ws : List (Byte × Byte)) (w : Byte × Byte) (p : Psg) :
    ∃ q : Psg, Env.afterWrites cfg (ws ++ [w]) (.present p) = .present q ∧ q.addr = select4 w.1 := by
  obtain ⟨q, hq⟩ := afterWrites_present cfg hp ws p
  exact ⟨_, by rw [afterWrites_append, hq, afterWrites_one cfg hp], rfl⟩

end Present

/-- The bits detection compares are stored (R12). -/
theorem wmask_covers {cfg : Config} (h : cfg.valid = true) :
    ∀ q ∈ detectTests cfg, wmask cfg (select4 q.1) &&& q.2.2 = q.2.2 := by
  obtain ⟨-, -, -, -, -, -, -, -, -, -, -, -, hcov⟩ := valid_spec cfg h
  simp only [Config.wmaskCovers, Bool.and_eq_true, beq_iff_eq] at hcov
  obtain ⟨⟨hmix, hlev⟩, htone⟩ := hcov
  have htone' : wmask cfg (select4 cfg.toneLo[0]) &&& 0xFF = 0xFF := by
    rw [show wmask cfg (select4 cfg.toneLo[0]) = 0xFF from htone]
    decide
  simp only [detectTests, List.forall_mem_cons]
  exact ⟨hmix, hmix, hmix, hmix, hlev, hlev, hlev, hlev, htone', List.forall_mem_nil _⟩

section Restored

variable {cfg : Config} (hvalid : cfg.valid = true) {p : Psg}
include hvalid

/-- The tests of a run on a present chip, with what it reads back. -/
theorem testRun_present :
    testRun cfg (.present p) =
      ((detectTests cfg).map fun q => (q, q.2.1 &&& wmask cfg (select4 q.1)),
        Env.afterWrites cfg ((detectTests cfg).map fun q => (q.1, q.2.1))
          (.present { p with addr := select4 cfg.toneLo[0] })) := by
  obtain ⟨-, hp, -⟩ := valid_spec cfg hvalid
  rw [testRun, readCheckpoint_present, probes_present hp _ _ (wmask_covers hvalid)]

theorem answerOf_present : answerOf cfg (.present p) = true := by
  rw [answerOf, testRun_present hvalid, List.all_eq_true]
  intro x hx
  obtain ⟨q, hq, rfl⟩ := List.mem_map.mp hx
  rw [testMatches, beq_iff_eq, BitVec.and_assoc, wmask_covers hvalid q hq]

/-- Every register is as before the run, and the latch holds the last index written: the tests write restored registers
only, and the restore writes back values the chip stores whole (R259). -/
theorem envAfter_present (hfits : cfg.chipFits = true) (hmask : ChipMasked cfg (.present p)) :
    envAfter cfg (.present p) = .present { p with addr := select4 cfg.toneLo[0] } := by
  obtain ⟨-, hp, -⟩ := valid_spec cfg hvalid
  have hne := fun i j => Chip.select4_ne hvalid hfits (i := i) (j := j)
  have hnodup : ∀ c, ((restoreWrites cfg c).map fun w => select4 w.1).Nodup := by
    intro c
    simp only [restoreWrites, List.map_cons, List.map_nil, List.nodup_cons, List.mem_cons, List.not_mem_nil, or_false,
      not_or, not_false_iff, List.nodup_nil, and_true]
    exact ⟨⟨hne 7 8 (by omega) (by omega) (by omega), hne 7 9 (by omega) (by omega) (by omega),
      hne 7 0 (by omega) (by omega) (by omega)⟩, ⟨hne 8 9 (by omega) (by omega) (by omega),
      hne 8 0 (by omega) (by omega) (by omega)⟩, hne 9 0 (by omega) (by omega) (by omega)⟩
  rw [envAfter, testRun_present hvalid, readCheckpoint_present]
  generalize hts : (detectTests cfg).map (fun q => (q.1, q.2.1)) = ts
  generalize hc : (Checkpoint.mk (p.read (select4 cfg.mixer)) (p.read (select4 cfg.level[0]))
    (p.read (select4 cfg.level[1])) (p.read (select4 cfg.toneLo[0]))) = c
  obtain ⟨q, hq⟩ := afterWrites_present cfg hp ts { p with addr := select4 cfg.toneLo[0] }
  obtain ⟨u, hu, haddr⟩ := latch_afterWrites hp [(cfg.mixer, c.mix), (cfg.level[0], c.l0), (cfg.level[1], c.l1)]
    (cfg.toneLo[0], c.f) q
  have hrestore : Env.afterWrites cfg (restoreWrites cfg c) (.present q) = .present u := hu
  have hread : ∀ i, u.read i = p.read i := by
    intro i
    by_cases hi : ∃ w ∈ restoreWrites cfg c, select4 w.1 = i
    · obtain ⟨w, hw, rfl⟩ := hi
      have hstored := Chip.reg_afterWrites_of_nodup hp (restoreWrites cfg c) q (hnodup c) hw
      have hvalue : w.2 = p.read (select4 w.1) := by
        subst hc
        simp only [restoreWrites, List.mem_cons, List.not_mem_nil, or_false] at hw
        rcases hw with rfl | rfl | rfl | rfl <;> rfl
      rw [hrestore] at hstored
      have hu' : u.read (select4 w.1) = w.2 &&& wmask cfg (select4 w.1) := Option.some.inj hstored
      rw [hu', hvalue]
      exact hmask (select4 w.1) _ rfl
    · have hother : ∀ w ∈ restoreWrites cfg c, select4 w.1 ≠ i := fun w hw h => hi ⟨w, hw, h⟩
      have htests : ∀ w ∈ ts, select4 w.1 ≠ i := by
        have hreg : ∀ w ∈ ts, ∃ w' ∈ restoreWrites cfg c, w'.1 = w.1 := by
          subst hts
          simp [detectTests, restoreWrites]
        intro w hw
        obtain ⟨w', hw', h⟩ := hreg w hw
        rw [← h]
        exact hother w' hw'
      have h1 := reg_afterWrites_frame cfg hp (restoreWrites cfg c) (.present q) i hother
      have h2 := reg_afterWrites_frame cfg hp ts (.present { p with addr := select4 cfg.toneLo[0] }) i htests
      rw [hrestore] at h1
      rw [hq] at h2
      exact (Option.some.inj h1).trans (Option.some.inj h2)
  rw [hq, hrestore, psg_ext (q := { p with addr := select4 cfg.toneLo[0] }) haddr hread]

end Restored

/-! ### The mask invariant through a run (R71) -/

theorem chipMasked_onWrite {cfg : Config} {e : Env} (port v : Byte) (h : ChipMasked cfg e) :
    ChipMasked cfg (e.onWrite cfg port v) := by
  cases e with
  | absent x => exact h
  | unconstrained as n => exact h
  | present p =>
    rw [Env.onWrite]
    split
    · exact h
    · split
      · intro i x hx
        by_cases hi : i = p.addr
        · subst hi
          rw [← Option.some.inj hx, read_write_self, BitVec.and_assoc, BitVec.and_self]
        · rw [Env.reg, read_write_other cfg p _ i v hi] at hx
          exact h i x hx
      · exact h

theorem chipMasked_onRead {cfg : Config} {e : Env} (h : ChipMasked cfg e) : ChipMasked cfg e.onRead := by
  cases e with
  | present p => exact h
  | absent x => exact h
  | unconstrained as n => intro i x hx; cases hx

theorem chipMasked_readEnv {cfg : Config} {e : Env} (r : Byte) (h : ChipMasked cfg e) :
    ChipMasked cfg (readEnv cfg r e).2 := chipMasked_onRead (chipMasked_onWrite _ _ h)

theorem chipMasked_probes {cfg : Config} (hp : cfg.addrPort ≠ cfg.dataPort) (qs : List Test) {e : Env}
    (h : ChipMasked cfg e) : ChipMasked cfg (probes cfg qs e).2 := by
  induction qs generalizing e with
  | nil => exact h
  | cons q qs ih =>
    have hprobe : ChipMasked cfg (probe cfg q e).2 := chipMasked_readEnv _ (chipMasked_afterWrites cfg hp _ _ h)
    cases hm : testMatches (q, (probe cfg q e).1) with
    | true => rw [probes_cons_of_match qs hm]; exact ih hprobe
    | false => rw [probes_cons_of_mismatch qs hm]; exact hprobe

/-- A detection run keeps the chip within its masks. -/
theorem chipMasked_envAfter {cfg : Config} (hp : cfg.addrPort ≠ cfg.dataPort) {e : Env} (h : ChipMasked cfg e) :
    ChipMasked cfg (envAfter cfg e) := by
  have hcheck : ChipMasked cfg (readCheckpoint cfg e).2 :=
    chipMasked_readEnv _ (chipMasked_readEnv _ (chipMasked_readEnv _ (chipMasked_readEnv _ h)))
  exact chipMasked_afterWrites cfg hp _ _ (chipMasked_probes hp _ hcheck)

/-! ### The obligations -/

/-- Settles O51: every test matches, and the run restores the chip. -/
theorem detectionFindsAPresentChip : Obligations.DetectionFindsAPresentChip := by
  intro s p hinv hfits henv
  have hvalid := hinv.config
  have hmask : ChipMasked s.cfg (.present p) := henv ▸ hinv.chip
  refine ⟨windowTrace s.cfg (readCheckpoint s.cfg s.env).1 (testRun s.cfg s.env).1, ?_, ?_⟩
  · rw [henv, testRun_present hvalid]
    rfl
  · rw [execCmd_detect_eq, henv, answerOf_present hvalid, envAfter_present hvalid hfits hmask, ← hinv.unmasked]
    rfl

/-- Settles O52: no constant answers all nine tests, and an absent chip never changes. -/
theorem detectionRejectsAnAbsentChip : Obligations.DetectionRejectsAnAbsentChip := by
  intro s x hmask hirq henv
  have hsame : envAfter s.cfg (.absent x) = .absent x := by
    rw [envAfter, testRun, show (readCheckpoint s.cfg (.absent x)).2 = .absent x from rfl,
      (probes_absent s.cfg (detectTests s.cfg) x).2, afterWrites_absent]
  refine ⟨windowTrace s.cfg (readCheckpoint s.cfg s.env).1 (testRun s.cfg s.env).1, ?_⟩
  rw [execCmd_detect_eq, hirq, henv, answerOf_absent hmask, hsame]
  rfl

/-- Settles O53: `detectPsg_eq` and `execCmd_detect_eq`, with the tests run as `probes_cases` says and, where answers are
listed, answered as `probes_listed` says. -/
theorem detectionTraceShape : Obligations.DetectionTraceShape := by
  intro s
  have hrun : testRun s.cfg s.env = probes s.cfg (detectTests s.cfg) (readCheckpoint s.cfg s.env).2 := rfl
  have hnine : (detectTests s.cfg).length = 9 := rfl
  have hcases := probes_cases s.cfg (detectTests s.cfg) (readCheckpoint s.cfg s.env).2
  rw [← hrun] at hcases
  refine ⟨(readCheckpoint s.cfg s.env).1.mix, (readCheckpoint s.cfg s.env).1.l0, (readCheckpoint s.cfg s.env).1.l1,
    (readCheckpoint s.cfg s.env).1.f, (testRun s.cfg s.env).1, answerOf s.cfg s.env, envAfter s.cfg s.env,
    windowTrace s.cfg (readCheckpoint s.cfg s.env).1 (testRun s.cfg s.env).1, ?_, ?_, ?_, ?_, ?_, ?_, rfl,
    detectPsg_eq s, execCmd_detect_eq s⟩
  · rcases hcases with ⟨hall, -⟩ | ⟨init, x, heq, hpre, -⟩
    · rw [hall]
    · rw [heq]
      exact hpre
  · rcases hcases with ⟨hall, -⟩ | ⟨init, x, heq, -⟩
    · rintro hnil
      rw [hnil] at hall
      cases hall
    · rw [heq]
      exact List.append_ne_nil_of_right_ne_nil _ (List.cons_ne_nil x [])
  · rcases hcases with ⟨-, hm⟩ | ⟨init, x, heq, -, hm, -⟩
    · exact fun q hq => hm q (List.mem_of_mem_dropLast hq)
    · rw [heq, List.dropLast_concat]
      exact hm
  · intro hlt
    rcases hcases with ⟨hall, -⟩ | ⟨init, x, heq, -, -, hx⟩
    · rw [← List.length_map (f := Prod.fst), hall, hnine] at hlt
      exact absurd hlt (lt_irrefl 9)
    · exact ⟨x, by rw [heq, List.getLast?_concat], hx⟩
  · rw [answerOf, List.all_eq_true]
    refine ⟨fun hm => ⟨?_, hm⟩, fun h => h.2⟩
    rcases hcases with ⟨hall, -⟩ | ⟨init, x, heq, -, -, hx⟩
    · rw [← hnine, ← hall, List.length_map]
    · have hx' := hm x (by rw [heq]; exact List.mem_append_right _ (List.mem_singleton_self x))
      rw [hx] at hx'
      cases hx'
  · intro answers n henv hlen
    match answers, hlen with
    | a0 :: a1 :: a2 :: a3 :: as, hlen =>
      have has : (detectTests s.cfg).length ≤ as.length := by
        simp only [List.length_cons] at hlen
        omega
      have hcheck : readCheckpoint s.cfg s.env = (⟨a0, a1, a2, a3⟩, .unconstrained as (n + 4)) := by
        rw [henv]
        rfl
      obtain ⟨hvals, hafter⟩ := probes_listed s.cfg (detectTests s.cfg) as (n + 4) has
      have hrun' : testRun s.cfg s.env = probes s.cfg (detectTests s.cfg) (.unconstrained as (n + 4)) := by
        rw [hrun, hcheck]
      rw [← hrun'] at hvals hafter
      have hdrop : ∀ k, (a0 :: a1 :: a2 :: a3 :: as).drop (4 + k) = as.drop k := fun k => by
        rw [Nat.add_comm]; rfl
      have htake : ∀ k, (a0 :: a1 :: a2 :: a3 :: as).take (4 + k) = a0 :: a1 :: a2 :: a3 :: as.take k := fun k => by
        rw [Nat.add_comm]; rfl
      refine ⟨?_, ?_⟩
      · rw [htake, hcheck, hvals]
        rfl
      · rw [envAfter, hafter, afterWrites_listed, hdrop, Nat.add_assoc]

end Sys2Proof.Detection
end

section
/-! The invariant of the machine (R26, R28, R29, R33, R71) and the rise of the stamps (R151): both hold of a table that moves
(`TableMove`) and of one that is cleared, and every step but a reset of the block does one of the two. -/

namespace Sys2Proof.Invariant

open Sys2Proof.Machine Sys2Proof.Laws Sys2Proof.Bytes Sys2Proof.Table Sys2Proof.HostOps Sys2Proof.Steps

/-! ### A cleared table (R210, R300) -/

theorem voice_of_cleared {t : State} {n : Nat} (h : t.voices = List.replicate n Voice.empty) (v : Nat) :
    t.voice v = Voice.empty := by
  rw [State.voice, h, List.getElem?_replicate]
  split <;> rfl

theorem notesUnique_of_cleared {t : State} {n : Nat} (h : t.voices = List.replicate n Voice.empty) : NotesUnique t := by
  intro i _ j _ hi
  rw [voice_of_cleared h] at hi
  cases hi

theorem stampsFresh_of_cleared {t : State} {n : Nat} (h : t.voices = List.replicate n Voice.empty) : StampsFresh t := by
  refine ⟨fun i _ => ?_, fun i _ j _ hi => ?_⟩
  · rw [voice_of_cleared h]
    exact Nat.zero_le _
  · rw [voice_of_cleared h] at hi
    cases hi

/-! ### Keeping the invariant -/

theorem inv_of_move {s t : State} (h : s.Inv) (htable : TableMove s t) (hcfg : t.cfg = s.cfg) (hparser : t.parser.Inv)
    (hirq : t.irqMask = false) (hchip : ChipMasked s.cfg t.env) : t.Inv where
  config := by rw [hcfg]; exact h.config
  parser := hparser
  size := by rw [htable.length_eq, hcfg]; exact h.size
  unique := htable.notesUnique h.unique
  stamps := htable.stampsFresh h.stamps
  unmasked := hirq
  chip := by rw [hcfg]; exact hchip

theorem inv_of_cleared {s t : State} (h : s.Inv) (htable : t.voices = List.replicate s.cfg.n Voice.empty)
    (hcfg : t.cfg = s.cfg) (hparser : t.parser.Inv) (hirq : t.irqMask = false) (hchip : ChipMasked s.cfg t.env) :
    t.Inv where
  config := by rw [hcfg]; exact h.config
  parser := hparser
  size := by rw [htable, hcfg, List.length_replicate]
  unique := notesUnique_of_cleared htable
  stamps := stampsFresh_of_cleared htable
  unmasked := hirq
  chip := by rw [hcfg]; exact hchip

theorem ports_ne {s : State} (h : s.Inv) : s.cfg.addrPort ≠ s.cfg.dataPort := (valid_spec s.cfg h.config).2.1

theorem inv_setInput {s : State} (h : s.Inv) (q : List Item) : (s.setInput q).Inv :=
  inv_of_move h (.keep rfl rfl) rfl h.parser h.unmasked h.chip

theorem inv_addResult {s : State} (h : s.Inv) (r : Option Bool) : (s.addResult r).Inv :=
  inv_of_move h (.keep rfl rfl) rfl h.parser h.unmasked h.chip

theorem takeByte_cfg (b : Byte) (s : State) : (takeByte b s).cfg = s.cfg := by
  obtain ⟨vs, c, lv, hb⟩ := Frames.takeByte_effect s b
  rw [hb]

theorem inv_takeByte {s : State} (h : s.Inv) (b : Byte) : (takeByte b s).Inv := by
  have htable := tableMove_takeByte s b
  obtain ⟨vs, c, lv, hb⟩ := Frames.takeByte_effect s b
  rw [hb] at htable ⊢
  exact inv_of_move h htable rfl (ParserRules.parse_inv h.parser b) h.unmasked
    (chipMasked_afterWrites s.cfg (ports_ne h) _ _ h.chip)

theorem inv_takeBytes {s : State} (h : s.Inv) (bs : List Byte) : (takeBytes bs s).Inv ∧ (takeBytes bs s).cfg = s.cfg := by
  induction bs generalizing s with
  | nil => exact ⟨h, rfl⟩
  | cons b bs ih =>
    obtain ⟨hinv, hcfg⟩ := ih (inv_takeByte h b)
    exact ⟨hinv, hcfg.trans (takeByte_cfg b s)⟩

/-- What the driver writes keeps the invariant, whether it moves the table or clears it. -/
theorem inv_of_drives {ws : List (Byte × Byte)} {s t : State} (h : s.Inv) (hd : Drives ws s t)
    (htable : TableMove s t ∨ t.voices = List.replicate s.cfg.n Voice.empty) : t.Inv := by
  obtain ⟨vs, c, lv, rfl⟩ := hd
  have hchip := chipMasked_afterWrites s.cfg (ports_ne h) ws s.env h.chip
  rcases htable with hmove | hclear
  · exact inv_of_move h hmove rfl h.parser h.unmasked hchip
  · exact inv_of_cleared h hclear rfl h.parser h.unmasked hchip

/-! ### What a command makes of the table -/

/-- A host `note_on` that is not refused takes a note no other voice sounds (R29). -/
theorem free_of_opError_none {s : State} {voice : Nat} {note velocity channel : Byte} (hact : s.active = some .psg)
    (he : opError (.noteOn voice note velocity channel) s = none) :
    ∀ w < s.voices.length, w ≠ voice → (s.voice w).sounds (note.setWidth 7) (channel.setWidth 4) = false := by
  rw [opError, Option.or_eq_none_iff] at he
  have hdup := he.2
  rw [duplicateError_noteOn hact] at hdup
  intro w hw hne
  by_contra hs
  have helse : soundsElsewhere voice (note.setWidth 7) (channel.setWidth 4) s = true := by
    rw [soundsElsewhere, List.any_eq_true]
    exact ⟨w, List.mem_range.mpr hw, by simpa [hne] using hs⟩
  rw [helse] at hdup
  cases hdup

/-- A backend operation that is not refused moves the table, or clears it and keeps the counter. -/
theorem table_runOp {f : BackendOp} {s : State} (hact : s.active = some .psg) (he : opError f s = none) :
    TableMove s (runOp f s) ∨
      (runOp f s).voices = List.replicate s.cfg.n Voice.empty ∧ (runOp f s).counter = s.counter := by
  have hclear : (driverInit s).voices = List.replicate s.cfg.n Voice.empty ∧ (driverInit s).counter = s.counter := by
    rw [driverInit_eq]
    exact ⟨rfl, rfl⟩
  cases f with
  | init | reset => exact .inr hclear
  | allOff => exact .inl (tableMove_allOff s)
  | panic => exact .inl (tableMove_driverPanic s)
  | noteOn voice note velocity channel =>
    exact .inl (tableMove_noteOn s voice _ _ _ fun _ => free_of_opError_none hact he)
  | noteOff voice => exact .inl (tableMove_noteOff s voice)
  | setVolume voice value => exact .inl (.keep (by rw [runOp, setVolume_eq]) (by rw [runOp, setVolume_eq]))
  | setAttack voice value => exact .inl (.keep (by rw [runOp, setAttack_eq]) (by rw [runOp, setAttack_eq]))
  | setDecay voice value => exact .inl (.keep (by rw [runOp, setDecay_eq]) (by rw [runOp, setDecay_eq]))
  | setSustain voice value => exact .inl (.keep (by rw [runOp, setSustain_eq]) (by rw [runOp, setSustain_eq]))
  | setRelease voice value => exact .inl (.keep (by rw [runOp, setRelease_eq]) (by rw [runOp, setRelease_eq]))
  | setVibrato value | setTremolo value | setModulation value => exact .inl (.keep rfl rfl)
  | setPitchBend value => exact .inl (tableMove_setPitchBend s value)
  | setPreset program => exact .inl (tableMove_setPreset s program)

/-- A successful `select` clears the table and keeps the counter (R183). -/
theorem table_select (s : State) :
    (driverInit ((silenceOutgoing s).setActive (some .psg))).voices = List.replicate s.cfg.n Voice.empty ∧
      (driverInit ((silenceOutgoing s).setActive (some .psg))).counter = s.counter := by
  have hsilence : (silenceOutgoing s).cfg = s.cfg ∧ (silenceOutgoing s).counter = s.counter := by
    unfold silenceOutgoing
    split
    · rw [allOff_eq]
      exact ⟨rfl, rfl⟩
    · exact ⟨rfl, rfl⟩
  rw [driverInit_eq, setActive_cfg, setActive_counter, hsilence.1, hsilence.2]
  exact ⟨rfl, rfl⟩

theorem inv_execCmd {c : HostCmd} {s t : State} (h : s.Inv) (hc : execCmd c s = .next t) : t.Inv ∧ t.cfg = s.cfg := by
  by_cases hdet : c = .detect
  · subst hdet
    rw [Detection.execCmd_detect_eq] at hc
    cases hc
    exact ⟨inv_of_move h (.keep rfl rfl) rfl h.parser rfl (Detection.chipMasked_envAfter (ports_ne h) h.chip), rfl⟩
  refine ⟨?_, (writes_execCmd hc hdet).1⟩
  rcases execCmd_cases hc hdet with ⟨-, rfl⟩ | ⟨-, rfl⟩ | ⟨f, -, hact, he, rfl⟩ | ⟨r, rfl⟩
  · exact inv_of_cleared h rfl rfl ParserRules.reset_inv rfl h.chip
  · obtain ⟨ws, hd⟩ := drives_select s
    have hactive : (s.setActive (some .psg)).Inv := inv_of_move h (.keep rfl rfl) rfl h.parser h.unmasked h.chip
    exact inv_addResult (inv_of_drives hactive hd (.inr (table_select s).1)) _
  · obtain ⟨ws, hd⟩ := drives_runOp f s
    exact inv_addResult (inv_of_drives h hd ((table_runOp hact he).imp_right And.left)) _
  · exact inv_addResult h r

/-! ### Stamps rise (R151) -/

/-- From `s` to `t` the counter does not fall, and a stamp that changes is cleared or is above the counter of `s`. -/
def StampsRise (s t : State) : Prop :=
  s.counter ≤ t.counter ∧
    ∀ v, (t.voice v).allocatedAt = (s.voice v).allocatedAt ∨ (t.voice v).allocatedAt = 0 ∨
      s.counter < (t.voice v).allocatedAt

namespace StampsRise

theorem trans {s t u : State} (h : StampsRise s t) (k : StampsRise t u) : StampsRise s u := by
  obtain ⟨hc, hv⟩ := h
  obtain ⟨kc, kv⟩ := k
  refine ⟨hc.trans kc, fun v => ?_⟩
  rcases kv v with k1 | k1 | k1
  · rw [k1]; exact hv v
  · exact .inr (.inl k1)
  · exact .inr (.inr (lt_of_le_of_lt hc k1))

theorem of_move {s t : State} (h : TableMove s t) : StampsRise s t := by
  refine ⟨h.counter_le, fun v => ?_⟩
  cases h with
  | mute _ _ hv => rcases hv v with h | h <;> exact .inl (by rw [h])
  | sound w k n vel c hk _ hv _ =>
    rw [voice_set s hv v]
    split
    · exact .inr (.inr (Nat.lt_add_of_pos_right hk))
    · exact .inl rfl

theorem of_cleared {s t : State} {n : Nat} (h : t.voices = List.replicate n Voice.empty) (hc : t.counter = s.counter) :
    StampsRise s t :=
  ⟨hc.ge, fun v => .inr (.inl (by rw [voice_of_cleared h]; rfl))⟩

end StampsRise

theorem stampsRise_takeBytes (bs : List Byte) (s : State) : StampsRise s (takeBytes bs s) := by
  induction bs generalizing s with
  | nil => exact .of_move (.keep rfl rfl)
  | cons b bs ih => exact (StampsRise.of_move (tableMove_takeByte s b)).trans (ih (takeByte b s))

theorem stampsRise_execCmd {c : HostCmd} {s t : State} (hc : execCmd c s = .next t) (hreset : c ≠ .reset)
    (hreinit : c ≠ .reinit) : StampsRise s t := by
  have hresult : ∀ (u : State) r, StampsRise u (u.addResult r) := fun u r => .of_move (.keep rfl rfl)
  by_cases hdet : c = .detect
  · subst hdet
    rw [Detection.execCmd_detect_eq] at hc
    cases hc
    exact .of_move (.keep rfl rfl)
  rcases execCmd_cases hc hdet with ⟨hr, -⟩ | ⟨-, rfl⟩ | ⟨f, -, hact, he, rfl⟩ | ⟨r, rfl⟩
  · exact (hr.elim hreset hreinit).elim
  · obtain ⟨hvoices, hcount⟩ := table_select s
    exact (StampsRise.of_cleared hvoices hcount).trans (hresult _ _)
  · have hop : StampsRise s (runOp f s) :=
      (table_runOp hact he).elim .of_move fun h => .of_cleared h.1 h.2
    exact hop.trans (hresult _ _)
  · exact hresult s r

/-! ### The obligations -/

/-- Settles O54: bytes by `inv_takeBytes`, a command by `inv_execCmd`. -/
theorem stepKeepsTheInvariant : Obligations.StepKeepsTheInvariant := by
  intro s t h hstep
  rcases step_bytes_or_cmd hstep with ⟨bs, q, rfl⟩ | ⟨c, rest, -, hc⟩
  · exact inv_takeBytes (inv_setInput h q) bs
  · have hkeep := inv_execCmd (inv_setInput h rest) hc
    exact hkeep

/-- Settles O55: the table is clear, `P` is reset, and the environment holds no chip. -/
theorem resetMeetsTheInvariant : Obligations.ResetMeetsTheInvariant where
  config := Tests.test_p0_valid
  parser := ParserRules.reset_inv
  size := List.length_replicate
  unique := notesUnique_of_cleared rfl
  stamps := stampsFresh_of_cleared rfl
  unmasked := rfl
  chip := fun _ _ h => nomatch h

/-- Settles O58: by `StampsRise`, since no stamp of `s` is above its counter. -/
theorem stampsOnlyRise : Obligations.StampsOnlyRise := by
  intro s t hinv hstep hcmd
  have hrise : StampsRise s t := by
    rcases step_bytes_or_cmd hstep with ⟨bs, q, rfl⟩ | ⟨c, rest, hi, hc⟩
    · exact stampsRise_takeBytes bs (s.setInput q)
    · have hr := stampsRise_execCmd hc (fun h => (hcmd rest).1 (h ▸ hi)) (fun h => (hcmd rest).2 (h ▸ hi))
      exact hr
  obtain ⟨hcount, hstamps⟩ := hrise
  refine ⟨hcount, fun v _ hne hzero w hw => ?_⟩
  rcases hstamps v with h | h | h
  · exact absurd h hne
  · exact absurd h hzero
  · exact lt_of_le_of_lt (hinv.stamps.1 w hw) h

end Sys2Proof.Invariant
end

section
/-! What playing does to the chip (R43, R313): every operation but `init` and `panic` is a chain of writes to registers of
tone and envelope, and of level writes that set the shadow with the register (`Plays`). So the mixer register keeps its
value, and the shadows keep agreeing with the level registers. -/

namespace Sys2Proof.Playing

open Sys2Proof.Machine Sys2Proof.Laws Sys2Proof.Bytes Sys2Proof.HostOps Sys2Proof.Steps Sys2Proof.Invariant

/-- A write of `r` selects neither the mixer nor a level register. -/
def Plain (cfg : Config) (r : Byte) : Prop :=
  select4 r ≠ select4 cfg.mixer ∧ ∀ v < 3, select4 r ≠ select4 (levelReg cfg v)

/-- `t` is reached from `s` by writes of plain registers, level writes, and changes that leave the configuration, the
environment and the shadows. -/
inductive Plays (s : State) : State → Prop where
  | refl : Plays s s
  | same {t u : State} (h : Plays s t) (cfg : u.cfg = t.cfg) (env : u.env = t.env) (lvl : u.lvl = t.lvl) : Plays s u
  | write {t : State} (h : Plays s t) (r x : Byte) (plain : Plain s.cfg r) : Plays s (regWrite r x t)
  | level {t : State} (h : Plays s t) (v : Nat) (x : BitVec 5) (hv : v < 3) : Plays s (writeLevel v x t)

namespace Plays

theorem cfg_eq {s t : State} (h : Plays s t) : t.cfg = s.cfg := by
  induction h with
  | refl => rfl
  | same _ hc _ _ ih => rw [hc, ih]
  | write _ r x _ ih => rw [regWrite_eq]; exact ih
  | level _ v x _ ih => rw [writeLevel_eq]; exact ih

theorem trans {s t u : State} (h : Plays s t) (k : Plays t u) : Plays s u := by
  have hcfg := h.cfg_eq
  induction k with
  | refl => exact h
  | same _ hc he hl ih => exact .same ih hc he hl
  | write _ r x hr ih => exact .write ih r x (hcfg ▸ hr)
  | level _ v x hv ih => exact .level ih v x hv

theorem of_eq {s t : State} (hc : t.cfg = s.cfg) (he : t.env = s.env) (hl : t.lvl = s.lvl) : Plays s t :=
  .same .refl hc he hl

theorem writes {s : State} (ws : List (Byte × Byte)) (h : ∀ w ∈ ws, Plain s.cfg w.1) {t : State} (ht : Plays s t) :
    Plays s (regWrites ws t) := by
  induction ws generalizing t with
  | nil => exact ht
  | cons w ws ih =>
    obtain ⟨hw, hws⟩ := List.forall_mem_cons.mp h
    exact ih hws (.write ht w.1 w.2 hw)

end Plays

/-! ### What playing keeps -/

theorem levelReg_ne_mixer {cfg : Config} (hvalid : cfg.valid = true) (hfits : cfg.chipFits = true) {v : Nat} (hv : v < 3) :
    select4 (levelReg cfg v) ≠ select4 cfg.mixer := by
  rw [Chip.levelReg_eq cfg hv, Chip.mixer_eq]
  exact Chip.select4_ne hvalid hfits (by omega) (by omega) (by omega)

theorem levelReg_ne {cfg : Config} (hvalid : cfg.valid = true) (hfits : cfg.chipFits = true) {v w : Nat} (hv : v < 3)
    (hw : w < 3) (hne : v ≠ w) : select4 (levelReg cfg v) ≠ select4 (levelReg cfg w) := by
  rw [Chip.levelReg_eq cfg hv, Chip.levelReg_eq cfg hw]
  exact Chip.select4_ne hvalid hfits (by omega) (by omega) (by omega)

/-- One write leaves every register it does not select (R62, R71). -/
theorem reg_write_frame {cfg : Config} (hp : cfg.addrPort ≠ cfg.dataPort) (w : Byte × Byte) (e : Env) {i : BitVec 4}
    (h : select4 w.1 ≠ i) : (e.afterWrites cfg [w]).reg i = e.reg i :=
  reg_afterWrites_frame cfg hp [w] e i (List.forall_mem_singleton.mpr h)

/-- A register that reads as something belongs to a present chip. -/
theorem present_of_reg {e : Env} {i : BitVec 4} {x : Byte} (h : e.reg i = some x) : ∃ p, e = .present p := by
  cases e with
  | present p => exact ⟨p, rfl⟩
  | absent _ => cases h
  | unconstrained _ _ => cases h

/-- A chip that stores all five level bits stores a level value whole (R41). -/
theorem level_stored {w : Byte} (h : w &&& 0x1F = 0x1F) (x : BitVec 5) : x.setWidth 8 &&& w = x.setWidth 8 := by
  have hx : ∀ x : BitVec 5, x.setWidth 8 &&& 0x1F = x.setWidth 8 := by decide
  calc x.setWidth 8 &&& w = x.setWidth 8 &&& 0x1F &&& w := by rw [hx]
    _ = x.setWidth 8 &&& (w &&& 0x1F) := by rw [BitVec.and_assoc, BitVec.and_comm w]
    _ = x.setWidth 8 := by rw [h, hx]

section Keeps

variable {s : State} (hvalid : s.cfg.valid = true) (hfits : s.cfg.chipFits = true)
include hvalid hfits

theorem Plays.mixer {t : State} (h : Plays s t) : t.env.reg (select4 s.cfg.mixer) = s.env.reg (select4 s.cfg.mixer) := by
  obtain ⟨-, hp, -⟩ := valid_spec s.cfg hvalid
  induction h with
  | refl => rfl
  | same _ _ he _ ih => rw [he]; exact ih
  | write ht r x hr ih => rw [Chip.regWrite_env, ht.cfg_eq, reg_write_frame hp (r, x) _ hr.1]; exact ih
  | level ht v x hv ih =>
    rw [writeLevel_eq, ht.cfg_eq, reg_write_frame hp _ _ (levelReg_ne_mixer hvalid hfits hv)]
    exact ih

theorem Plays.shadowsAgree (hstored : LevelsStored s.cfg) (hs : ShadowsAgree s) {t : State} (h : Plays s t) :
    ShadowsAgree t := by
  obtain ⟨-, hp, -⟩ := valid_spec s.cfg hvalid
  induction h with
  | refl => exact hs
  | same _ hc he hl ih =>
    intro v hv
    rw [hc, he, State.shadow, hl]
    exact ih v hv
  | @write t ht r x hr ih =>
    have hcfg := ht.cfg_eq
    intro v hv
    have hshadow : (regWrite r x t).shadow v = t.shadow v := by rw [regWrite_eq]; rfl
    have hcfg' : (regWrite r x t).cfg = s.cfg := by rw [regWrite_eq]; exact hcfg
    rw [hshadow, hcfg', Chip.regWrite_env, hcfg, reg_write_frame hp (r, x) _ (hr.2 v hv), ← hcfg]
    exact ih v hv
  | @level t ht w x hw ih =>
    have hcfg := ht.cfg_eq
    intro v hv
    have henv : (writeLevel w x t).env = t.env.afterWrites s.cfg [levelWrite s.cfg w x] := by rw [writeLevel_eq, hcfg]
    have hcfg' : (writeLevel w x t).cfg = s.cfg := by rw [writeLevel_eq]; exact hcfg
    have hlvl : (writeLevel w x t).lvl = t.lvl.setIfInBounds w x := by rw [writeLevel_eq]
    rw [henv, hcfg']
    by_cases hvw : v = w
    · subst hvw
      obtain ⟨p, hpres⟩ := present_of_reg (ih v hv)
      rw [hpres, levelWrite, reg_afterWrite s.cfg hp, if_pos rfl, level_stored (hstored v hv),
        Arithmetic.shadow_of_lvl hlvl hv]
    · have hother : (writeLevel w x t).shadow v = t.shadow v := by
        rw [State.shadow, hlvl]
        exact shadow_setShadow_other t w v x hvw
      rw [hother, levelWrite, reg_write_frame hp _ _ (levelReg_ne hvalid hfits hw hv (Ne.symm hvw)), ← hcfg]
      exact ih v hv

end Keeps

/-! ### The operations that play -/

section Operations

variable {s : State} (hvalid : s.cfg.valid = true) (hfits : s.cfg.chipFits = true)
include hvalid hfits

/-- A register of tone or envelope is plain (R10). -/
theorem plain_of_index {k : Nat} (hk : k < 14) (h : k < 7 ∨ 11 ≤ k) : Plain s.cfg (s.cfg.indices.getD k 0) := by
  refine ⟨?_, fun v hv => ?_⟩
  · rw [Chip.mixer_eq]
    exact Chip.select4_ne hvalid hfits hk (by omega) (by omega)
  · rw [Chip.levelReg_eq s.cfg hv]
    exact Chip.select4_ne hvalid hfits hk (by omega) (by omega)

theorem plays_writePeriod {v : Nat} (hv : v < 3) (period : Nat) : Plays s (writePeriod v period s) := by
  refine .writes _ ?_ .refl
  simp only [periodWrites, List.forall_mem_cons]
  rw [Chip.toneLoReg_eq s.cfg hv, Chip.toneHiReg_eq s.cfg hv]
  exact ⟨plain_of_index hvalid hfits (by omega) (by omega), plain_of_index hvalid hfits (by omega) (by omega),
    List.forall_mem_nil _⟩

theorem plays_writeEnvPeriod (x : Byte) : Plays s (writeEnvPeriod x s) := by
  refine .writes _ ?_ .refl
  simp only [envPeriodWrites, List.forall_mem_cons]
  exact ⟨plain_of_index hvalid hfits (k := 11) (by omega) (by omega),
    plain_of_index hvalid hfits (k := 12) (by omega) (by omega), List.forall_mem_nil _⟩

theorem plays_shape (shape : BitVec 4) : Plays s (regWrites [shapeWrite s.cfg shape] s) :=
  .writes _ (List.forall_mem_singleton.mpr (plain_of_index hvalid hfits (k := 13) (by omega) (by omega))) .refl

theorem plays_setDecay (v : Nat) (value : Byte) : Plays s (setDecay v value s) := plays_shape hvalid hfits _

theorem plays_setRelease (v : Nat) (value : Byte) : Plays s (setRelease v value s) := plays_writeEnvPeriod hvalid hfits value

theorem plays_setAttack {v : Nat} (hv : v < 3) (value : Byte) : Plays s (setAttack v value s) :=
  .level (plays_writeEnvPeriod hvalid hfits value) v (levelToEnvelope (s.shadow v)) hv

omit hvalid hfits in
theorem plays_setVolume {v : Nat} (hv : v < 3) (value : Byte) : Plays s (setVolume v value s) :=
  .level .refl v (levelKeepMode (s.shadow v) (vol4 value)) hv

omit hvalid hfits in
theorem plays_setSustain {v : Nat} (hv : v < 3) (value : Byte) : Plays s (setSustain v value s) :=
  .level .refl v (levelPlain (vol4 value)) hv

theorem plays_setPreset (p : Byte) : Plays s (setPreset p s) := by
  unfold setPreset
  split
  · exact plays_shape hvalid hfits _
  · exact .refl

theorem plays_noteOn {v : Nat} (hv : v < 3) (n vel : BitVec 7) (c : BitVec 4) : Plays s (noteOn v n vel c s) :=
  .same (.level (plays_writePeriod hvalid hfits hv (noteToPeriod s.cfg n)) v (levelPlain (vol4 (wide vel))) hv) rfl rfl rfl

theorem plays_bendVoice (b : Int) {v : Nat} (hv : v < 3) : Plays s (bendVoice b v s) := by
  unfold bendVoice
  split
  · exact plays_writePeriod hvalid hfits hv _
  · exact .refl

omit hvalid hfits in
theorem plays_noteOff {v : Nat} (hv : v < 3) : Plays s (noteOff v s) := .same (.level .refl v 0 hv) rfl rfl rfl

omit hvalid hfits in
/-- A loop over voices of the chip plays if each turn of it does. -/
theorem plays_foldl (f : Nat → State → State) (hf : ∀ v < 3, ∀ t, t.cfg = s.cfg → Plays t (f v t)) (vs : List Nat)
    (hvs : ∀ v ∈ vs, v < 3) {t : State} (ht : Plays s t) : Plays s (vs.foldl (fun s v => f v s) t) := by
  induction vs generalizing t with
  | nil => exact ht
  | cons v vs ih =>
    obtain ⟨hv, hvs⟩ := List.forall_mem_cons.mp hvs
    exact ih hvs (ht.trans (hf v hv t ht.cfg_eq))

omit hfits in
theorem range_lt_three : ∀ v ∈ List.range s.cfg.n, v < 3 := fun _ hv =>
  Chip.voice_lt_three hvalid (List.mem_range.mp hv)

omit hfits in
theorem plays_allOff : Plays s (allOff s) :=
  plays_foldl noteOff (fun _ hv _ _ => plays_noteOff hv) _ (range_lt_three hvalid) .refl

theorem plays_setPitchBend (b : Int) : Plays s (setPitchBend b s) := by
  refine plays_foldl (bendVoice b) (fun v hv t ht => ?_) _ (range_lt_three hvalid) .refl
  exact plays_bendVoice (by rwa [ht]) (by rwa [ht]) b hv

/-! ### Events and bytes -/

variable (hinv : s.Inv)
include hinv

omit hfits hvalid in
theorem found_lt_three {v : Nat} (hv : v < s.voices.length) : v < 3 :=
  Chip.voice_lt_three hinv.config (hinv.size ▸ hv)

theorem plays_routeControl (k value : BitVec 7) : Plays s (routeControl k value s) := by
  cases hfirst : firstActive s with
  | none => rw [Routing.routeControl_ignored s k value (.inr hfirst)]; exact .refl
  | some v =>
    have hv := found_lt_three hinv (firstActive_some s v hfirst).1
    cases hcc : ccAction s.cfg k with
    | none | vibrato | tremolo | modulation =>
      rw [Routing.routeControl_ignored s k value (.inl (by simp [hcc]))]; exact .refl
    | volume => rw [Routing.routeControl_volume value hfirst hcc]; exact plays_setVolume hv _
    | attack => rw [Routing.routeControl_attack value hfirst hcc]; exact plays_setAttack hvalid hfits hv _
    | decay => rw [Routing.routeControl_decay value hfirst hcc]; exact plays_setDecay hvalid hfits v _
    | sustain => rw [Routing.routeControl_sustain value hfirst hcc]; exact plays_setSustain hv _
    | release => rw [Routing.routeControl_release value hfirst hcc]; exact plays_setRelease hvalid hfits v _

theorem plays_routeNoteOn (n vel : BitVec 7) (c : BitVec 4) : Plays s (routeNoteOn n vel c s) := by
  cases hfind : findByNote n c s with
  | some v =>
    rw [routeNoteOn, hfind]
    exact plays_noteOn hvalid hfits (found_lt_three hinv (findByNote_some s n c v hfind).1) n vel c
  | none =>
    have hv : allocIndex s < 3 := by
      have h := Chip.noteOnVoice_lt hinv n c
      rw [noteOnVoice, hfind] at h
      exact Chip.voice_lt_three hvalid h
    have halloc : Plays s (allocate n vel c s).2 := .of_eq rfl rfl rfl
    rw [routeNoteOn, hfind]
    exact halloc.trans (plays_noteOn (s := (allocate n vel c s).2) hvalid hfits hv n vel c)

omit hvalid hfits in
theorem plays_routeNoteOff (n : BitVec 7) (c : BitVec 4) : Plays s (routeNoteOff n c s) := by
  cases hfind : findByNote n c s with
  | some v =>
    rw [routeNoteOff_found s n c v hfind]
    exact plays_noteOff (found_lt_three hinv (findByNote_some s n c v hfind).1)
  | none => rw [routeNoteOff_absent s n c hfind]; exact .refl

theorem plays_dispatch (e : Event) : Plays s (dispatch e s) := by
  cases hact : s.active with
  | none => rw [Rows.dispatch_without_backend s e hact]; exact .refl
  | some k =>
    cases k
    rw [Release.dispatch_psg s e hact]
    cases e with
    | noteOn n vel c =>
      simp only [routePsg]
      split
      · exact plays_routeNoteOff hinv n c
      · exact plays_routeNoteOn hvalid hfits hinv n vel c
    | noteOff n c => exact plays_routeNoteOff hinv n c
    | controlChange k v _ => exact plays_routeControl hvalid hfits hinv k v
    | programChange p _ => exact plays_setPreset hvalid hfits (wide p)
    | pitchBend b _ => exact plays_setPitchBend hvalid hfits b

omit hvalid in
theorem plays_takeByte (b : Byte) : Plays s (takeByte b s) := by
  cases hev : (parse s.parser b).2 with
  | none => rw [ByteStep.takeByte_of_noEvent s hev]; exact .of_eq rfl rfl rfl
  | some e =>
    rw [ByteStep.takeByte_of_event s hev]
    have hrec : Plays s { s with parser := (parse s.parser b).1, events := s.events ++ [e] } := .of_eq rfl rfl rfl
    have hinv' : State.Inv { s with parser := (parse s.parser b).1, events := s.events ++ [e] } :=
      inv_of_move hinv (.keep rfl rfl) rfl (ParserRules.parse_inv hinv.parser b) hinv.unmasked hinv.chip
    exact hrec.trans (plays_dispatch (by exact hinv.config) (by exact hfits) hinv' e)

omit hvalid in
theorem plays_takeBytes (bs : List Byte) : Plays s (takeBytes bs s) := by
  induction bs generalizing s with
  | nil => exact .refl
  | cons b bs ih =>
    have hb := plays_takeByte hfits hinv b
    exact hb.trans (ih (by rwa [hb.cfg_eq]) (inv_takeByte hinv b))

omit hinv in
/-- Every host operation but `init`, `reset` and `panic` plays, if it is not refused (R185). -/
theorem plays_runOp {f : BackendOp} (he : opError f s = none) (hf : f ≠ .init) (hf' : f ≠ .reset) (hf'' : f ≠ .panic) :
    Plays s (runOp f s) := by
  have hdom : f.wellFormed s.cfg.n = true := by
    rw [opError, Option.or_eq_none_iff] at he
    exact (argError_eq_none_iff _ _).mp he.1
  have hlt : ∀ {v : Nat}, decide (v < s.cfg.n) = true → v < 3 := fun h =>
    Chip.voice_lt_three hvalid (of_decide_eq_true h)
  cases f with
  | init => exact absurd rfl hf
  | reset => exact absurd rfl hf'
  | panic => exact absurd rfl hf''
  | allOff => exact plays_allOff hvalid
  | noteOn v n vel c =>
    simp only [BackendOp.wellFormed, Bool.and_eq_true] at hdom
    obtain ⟨⟨⟨hv, -⟩, -⟩, -⟩ := hdom
    exact plays_noteOn hvalid hfits (hlt hv) _ _ _
  | noteOff v => exact plays_noteOff (hlt hdom)
  | setVolume v value => exact plays_setVolume (hlt hdom) value
  | setAttack v value => exact plays_setAttack hvalid hfits (hlt hdom) value
  | setDecay v value => exact plays_setDecay hvalid hfits v value
  | setSustain v value => exact plays_setSustain (hlt hdom) value
  | setRelease v value => exact plays_setRelease hvalid hfits v value
  | setVibrato _ | setTremolo _ | setModulation _ => exact .refl
  | setPitchBend b => exact plays_setPitchBend hvalid hfits b
  | setPreset p => exact plays_setPreset hvalid hfits p

end Operations

/-! ### The mixer (R313) -/

/-- `Panic` writes the mixer off last (R234). -/
theorem mixer_after_panic {s t : State} {p : Psg} (hinv : s.Inv) (henv : s.env = .present p) (hact : s.active = some .psg)
    (h : execCmd .panic s = .next t) :
    t.env.reg (select4 s.cfg.mixer) = some (s.cfg.mixerOff &&& wmask s.cfg (select4 s.cfg.mixer)) := by
  have hp := ports_ne hinv
  rw [execCmd, ifActive_psg _ hact, driverPanic_eq, henv, afterWrites_append] at h
  cases h
  obtain ⟨q, hq⟩ := afterWrites_present s.cfg hp ((List.range s.cfg.n).map fun v => levelWrite s.cfg v 0) p
  rw [addResult_env, hq, reg_afterWrite s.cfg hp, if_pos rfl]

/-- A detection run of a present chip leaves every register as it was (R259). -/
theorem reg_after_detect {s t : State} {p : Psg} (hinv : s.Inv) (hfits : s.cfg.chipFits = true) (henv : s.env = .present p)
    (h : execCmd .detect s = .next t) (i : BitVec 4) : t.env.reg i = s.env.reg i := by
  have hmask : ChipMasked s.cfg (.present p) := henv ▸ hinv.chip
  rw [Detection.execCmd_detect_eq, henv, Detection.envAfter_present hinv.config hfits hmask] at h
  cases h
  rw [henv]
  rfl

/-- A command that does not set the mixer leaves its register as it was. -/
theorem mixer_after_cmd {c : HostCmd} {s t : State} {p : Psg} (hinv : s.Inv) (hfits : s.cfg.chipFits = true)
    (henv : s.env = .present p) (hc : c.setsMixer = false) (h : execCmd c s = .next t) :
    t.env.reg (select4 s.cfg.mixer) = s.env.reg (select4 s.cfg.mixer) := by
  by_cases hdet : c = .detect
  · subst hdet
    exact reg_after_detect hinv hfits henv h _
  rcases execCmd_cases h hdet with ⟨-, rfl⟩ | ⟨⟨kind, rfl⟩, -⟩ | ⟨f, hf, -, he, rfl⟩ | ⟨r, rfl⟩
  · rfl
  · cases hc
  · rcases hf with rfl | ⟨rfl, -⟩
    · have hplays := plays_runOp hinv.config hfits he (by rintro rfl; cases hc) (by rintro rfl; cases hc)
        (by rintro rfl; cases hc)
      exact hplays.mixer hinv.config hfits
    · cases hc
  · rfl

/-- Settles O45: the mixer is off after `Panic`, `Plays` and the commands that do not set it keep it, and so do any number
of bytes. -/
theorem mixerStaysOffAfterPanic : Obligations.MixerStaysOffAfterPanic := by
  refine ⟨fun s t p hinv henv hact h => mixer_after_panic hinv henv hact h, ?_, ?_⟩
  · intro s t p x hinv hfits henv hcmd hx hstep
    rw [← hx]
    rcases step_bytes_or_cmd hstep with ⟨bs, q, rfl⟩ | ⟨c, rest, hi, hc⟩
    · have hplays := plays_takeBytes (s := s.setInput q) hfits (inv_setInput hinv q) bs
      exact Plays.mixer (s := s.setInput q) hinv.config hfits hplays
    · exact mixer_after_cmd (s := s.setInput rest) (inv_setInput hinv rest) hfits henv (hcmd c rest hi) hc
  · intro s t u p bs hinv hfits henv hact hpanic hrun
    obtain ⟨htinv, htcfg⟩ := inv_execCmd hinv hpanic
    have hbytes := run_byteItems t bs []
    rw [List.append_nil] at hbytes
    have hu : u = takeBytes bs (t.setInput []) := by
      have h := hrun.symm.trans hbytes
      injection h
    have hplays := plays_takeBytes (s := t.setInput []) (by rwa [setInput_cfg, htcfg]) (inv_setInput htinv []) bs
    have hkeep := hplays.mixer (by rw [setInput_cfg, htcfg]; exact hinv.config) (by rwa [setInput_cfg, htcfg])
    rw [setInput_cfg, setInput_env, htcfg] at hkeep
    rw [hu, hkeep]
    exact mixer_after_panic hinv henv hact hpanic

/-! ### The shadows (R43) -/

/-- After `init` the shadows and the level registers are 0 (R210). -/
theorem shadowsAgree_driverInit {s : State} {p : Psg} (hvalid : s.cfg.valid = true) (hfits : s.cfg.chipFits = true)
    (henv : s.env = .present p) : ShadowsAgree (driverInit s) := by
  obtain ⟨hregs, -, hshadow, -⟩ := Chip.initDeterminesTheChip s p hvalid hfits henv
  have hcfg : (driverInit s).cfg = s.cfg := by rw [driverInit_eq]
  have hlevel : ∀ v < 3, (levelReg s.cfg v, (0 : Byte)) ∈ initWrites s.cfg := by
    intro v hv
    interval_cases v <;> simp [initWrites, levelReg]
  intro v hv
  rw [hshadow, hcfg, hregs _ (hlevel v hv)]
  exact congrArg some BitVec.zero_and

theorem shadowsAgree_of_eq {s t : State} (h : ShadowsAgree s) (hc : t.cfg = s.cfg) (he : ∀ i, t.env.reg i = s.env.reg i)
    (hl : t.lvl = s.lvl) : ShadowsAgree t := by
  intro v hv
  rw [hc, he, State.shadow, hl]
  exact h v hv

/-- `panic` is `all_off`, which plays, and one write of the mixer. -/
theorem shadowsAgree_driverPanic {s : State} (hvalid : s.cfg.valid = true) (hfits : s.cfg.chipFits = true)
    (hstored : LevelsStored s.cfg) (h : ShadowsAgree s) : ShadowsAgree (driverPanic s) := by
  obtain ⟨-, hp, -⟩ := valid_spec s.cfg hvalid
  have hall := plays_allOff hvalid
  have hagree := hall.shadowsAgree hvalid hfits hstored h
  have hcfg := hall.cfg_eq
  intro v hv
  have hreg := hagree v hv
  rw [hcfg] at hreg
  rw [driverPanic, regWrites_eq]
  simp only [hcfg]
  rw [reg_write_frame hp _ _ (Ne.symm (levelReg_ne_mixer hvalid hfits hv)), hreg]
  rfl

theorem shadowsAgree_runOp {f : BackendOp} {s : State} (hvalid : s.cfg.valid = true) (hfits : s.cfg.chipFits = true)
    (hstored : LevelsStored s.cfg) (h : ShadowsAgree s) (he : opError f s = none) : ShadowsAgree (runOp f s) := by
  obtain ⟨p, henv⟩ := present_of_reg (h 0 (by omega))
  by_cases hi : f = .init ∨ f = .reset
  · have hinit := shadowsAgree_driverInit hvalid hfits henv
    rcases hi with rfl | rfl
    · exact hinit
    · exact hinit
  by_cases hpan : f = .panic
  · subst hpan
    exact shadowsAgree_driverPanic hvalid hfits hstored h
  · exact (plays_runOp hvalid hfits he (fun h => hi (.inl h)) (fun h => hi (.inr h)) hpan).shadowsAgree hvalid hfits
      hstored h

/-- `select` ends with `init`, on a chip that `all_off` leaves present. -/
theorem shadowsAgree_select {s : State} {p : Psg} (hvalid : s.cfg.valid = true) (hfits : s.cfg.chipFits = true)
    (henv : s.env = .present p) : ShadowsAgree (driverInit ((silenceOutgoing s).setActive (some .psg))) := by
  obtain ⟨-, hp, -⟩ := valid_spec s.cfg hvalid
  have hsilence : (silenceOutgoing s).cfg = s.cfg ∧ ∃ q, (silenceOutgoing s).env = .present q := by
    unfold silenceOutgoing
    split
    · rw [allOff_eq, henv]
      exact ⟨rfl, afterWrites_present s.cfg hp _ p⟩
    · exact ⟨rfl, p, henv⟩
  obtain ⟨hcfg, q, hq⟩ := hsilence
  exact shadowsAgree_driverInit (p := q) (by rwa [setActive_cfg, hcfg]) (by rwa [setActive_cfg, hcfg]) hq

theorem shadowsAgree_execCmd {c : HostCmd} {s t : State} (hinv : s.Inv) (hfits : s.cfg.chipFits = true)
    (hstored : LevelsStored s.cfg) (h : ShadowsAgree s) (hc : execCmd c s = .next t) (hreset : c ≠ .reset)
    (hreinit : c ≠ .reinit) : ShadowsAgree t := by
  have hvalid := hinv.config
  obtain ⟨p, henv⟩ := present_of_reg (h 0 (by omega))
  by_cases hdet : c = .detect
  · subst hdet
    have hregs := reg_after_detect hinv hfits henv hc
    rw [Detection.execCmd_detect_eq] at hc
    cases hc
    exact shadowsAgree_of_eq h rfl hregs rfl
  rcases execCmd_cases hc hdet with ⟨hr, -⟩ | ⟨-, rfl⟩ | ⟨f, -, -, he, rfl⟩ | ⟨r, rfl⟩
  · exact (hr.elim hreset hreinit).elim
  · exact shadowsAgree_of_eq (shadowsAgree_select hvalid hfits henv) rfl (fun _ => rfl) rfl
  · exact shadowsAgree_of_eq (shadowsAgree_runOp hvalid hfits hstored h he) rfl (fun _ => rfl) rfl
  · exact shadowsAgree_of_eq h rfl (fun _ => rfl) rfl

/-- Settles O56: `init` by `shadowsAgree_driverInit`; bytes play, and a command is one of `shadowsAgree_execCmd`. -/
theorem shadowsAgreeWithTheChip : Obligations.ShadowsAgreeWithTheChip := by
  refine ⟨fun s p hvalid hfits henv => shadowsAgree_driverInit hvalid hfits henv, ?_⟩
  intro s t hinv hfits hstored h hstep hcmd
  rcases step_bytes_or_cmd hstep with ⟨bs, q, rfl⟩ | ⟨c, rest, hi, hc⟩
  · have hplays := plays_takeBytes (s := s.setInput q) hfits (inv_setInput hinv q) bs
    exact Plays.shadowsAgree (s := s.setInput q) hinv.config hfits hstored h hplays
  · exact shadowsAgree_execCmd (s := s.setInput rest) (inv_setInput hinv rest) hfits hstored h hc
      (fun hr => (hcmd rest).1 (hr ▸ hi)) (fun hr => (hcmd rest).2 (hr ▸ hi))

end Sys2Proof.Playing
end
